-- ==== Sys2Proof/Word.lean ====
section
/-! DEFINITION. The words of XFDE: bytes and 32-bit words (spec 00_scope R9). -/

namespace Sys2Proof

/-- One byte of engine memory. -/
abbrev Byte := BitVec 8

/-- A 32-bit register, engine-memory address or command word (R9). -/
abbrev Word := BitVec 32

end Sys2Proof
end

