-- ==== Sys2Proof/Syntax.lean ====
section
/-! DEFINITION. The commands of XFDE command set 1, one constructor per row of spec/opcode_table.json (R103), the
pseudo-instructions (R108) and the items of a command list in assembly (R107). -/

namespace Sys2Proof

/-- The eleven commands of R103. SETUP carries its two flag bits T and R (R105); no other command has operand bits. -/
inductive Instr where
  | halt
  | nop
  | setup (t r : Bool)
  | capture
  | diff
  | compress
  | swap
  | iterate
  | decompress
  | merge
  | receive
  deriving DecidableEq, Repr

/-- The two pseudo-instructions of R108. -/
inductive Pseudo where
  | txcycle
  | rxcycle
  deriving DecidableEq, Repr

/-- The fixed expansion of a pseudo-instruction (R108). -/
def Pseudo.expansion : Pseudo → List Instr
  | .txcycle => [.capture, .diff, .compress, .swap]
  | .rxcycle => [.decompress, .merge]

/-- The real command that a pseudo-instruction's end state equals (R108). -/
def Pseudo.equivalent : Pseudo → Instr
  | .txcycle => .iterate
  | .rxcycle => .receive

/-- One item of a command list in the assembly syntax of R107: `.org A`, `.word V`, a label, a command, a
pseudo-instruction. -/
inductive AsmItem where
  | org (a : Nat)
  | word (v : Word)
  | label (name : String)
  | cmd (i : Instr)
  | pseudo (p : Pseudo)
  deriving DecidableEq, Repr

end Sys2Proof
end

