-- ==== Sys2Proof/WellFormed.lean ====
section
/-! DEFINITION. Which commands have an encoding: all but SETUP with neither side (R102 case 4). -/

namespace Sys2Proof

/-- "op = 0x03 and cmd[9:8] = 0b00, so neither side is selected" is illegal (R102); every other command is one word of
R103. -/
def Instr.wellFormed : Instr → Bool
  | .setup t r => t || r
  | .halt | .nop | .capture | .diff | .compress | .swap | .iterate | .decompress | .merge | .receive => true

/-- An item of a list is well formed when its command is, and `.org` takes a multiple of 4 (R107). DESIGN CHOICE, entry 18:
an `.org` at or above 2^32 is not rejected. -/
def AsmItem.wellFormed : AsmItem → Bool
  | .org a => a % 4 == 0
  | .cmd i => i.wellFormed
  | .word _ | .label _ | .pseudo _ => true

end Sys2Proof
end

