-- ==== Sys2Proof/Decode.lean ====
section
/-! DEFINITION. Decoding of command words (R100 to R105), total, with a name for each way a word is illegal; then the
encoder, written from the field table of R100 and the opcodes of R103; then the assembler of R107 and R108. -/

namespace Sys2Proof

/-- `LE32(v)`: the four bytes of v, the lowest first (R11, R70). -/
def le32 (v : Word) : List Byte :=
  [v.extractLsb' 0 8, v.extractLsb' 8 8, v.extractLsb' 16 8, v.extractLsb' 24 8]

/-- The unsigned little-endian value of a byte sequence, as `MemRead` has it (R11). -/
def leValue : List Byte → Nat
  | [] => 0
  | b :: bs => b.toNat + 256 * leValue bs

/-- Why a word or a byte sequence is no command: the four cases of R102, and fewer than four bytes. -/
inductive DecodeError where
  /-- R102 case 1, R104 -/
  | unknownOpcode
  /-- R102 case 2: a bit of 31:8 set in a command other than SETUP -/
  | reservedBits
  /-- R102 case 3: a bit of 31:10 set in SETUP -/
  | setupReservedBits
  /-- R102 case 4: SETUP with T = R = 0 -/
  | setupNoSide
  /-- fewer than the four bytes of a command (R106) -/
  | truncated
  deriving DecidableEq, Repr

/-- The ten opcodes of R103 that take no operand bits. -/
def plainCommand (op : BitVec 8) : Option Instr :=
  match op.toNat with
  | 0x01 => some .halt
  | 0x02 => some .nop
  | 0x10 => some .capture
  | 0x11 => some .diff
  | 0x12 => some .compress
  | 0x13 => some .swap
  | 0x14 => some .iterate
  | 0x20 => some .decompress
  | 0x21 => some .merge
  | 0x22 => some .receive
  | _ => none

/-- SETUP's opcode (R103). -/
def setupOpcode : BitVec 8 := 0x03

/-- Decode of one command word (R102): "every 32-bit word is either one command of rule R103 or illegal". -/
def decodeWord (w : Word) : Except DecodeError Instr :=
  if w.extractLsb' 0 8 = setupOpcode then
    if w.extractLsb' 10 22 ≠ 0 then .error .setupReservedBits
    else if w.extractLsb' 8 2 = 0 then .error .setupNoSide
    else .ok (.setup (w.getLsbD 8) (w.getLsbD 9))
  else
    match plainCommand (w.extractLsb' 0 8) with
    | none => .error .unknownOpcode
    | some i => if w.extractLsb' 8 24 ≠ 0 then .error .reservedBits else .ok i

/-- The command at the front of a byte sequence and the bytes after it; a command is always 4 bytes (R101, R106). -/
def decode : List Byte → Except DecodeError (Instr × List Byte)
  | b0 :: b1 :: b2 :: b3 :: rest =>
    match decodeWord (b3 ++ b2 ++ b1 ++ b0) with
    | .ok i => .ok (i, rest)
    | .error e => .error e
  | _ => .error .truncated

/-- The opcode of a command (R103). -/
def Instr.opcode : Instr → BitVec 8
  | .halt => 0x01
  | .nop => 0x02
  | .setup _ _ => setupOpcode
  | .capture => 0x10
  | .diff => 0x11
  | .compress => 0x12
  | .swap => 0x13
  | .iterate => 0x14
  | .decompress => 0x20
  | .merge => 0x21
  | .receive => 0x22

/-- Bit 8 of a command's word: T (R100). -/
def Instr.bitT : Instr → Bool
  | .setup t _ => t
  | _ => false

/-- Bit 9 of a command's word: R (R100). -/
def Instr.bitR : Instr → Bool
  | .setup _ r => r
  | _ => false

/-- The word of a command, bit 31 on the left: RES, R, T, OP (R100). -/
def encodeWord (i : Instr) : Word :=
  (0#22) ++ BitVec.ofBool i.bitR ++ BitVec.ofBool i.bitT ++ i.opcode

/-- The four bytes of a command, as stored in engine memory (R70, R107). -/
def encode (i : Instr) : List Byte := le32 (encodeWord i)

/-- The instruction that the decoder reads from a table word: its bits above `nbits` are 0, and its bytes are stored
little-endian (R70). -/
def decodeTableWord (nbits w : Nat) : Option Instr :=
  match decode (le32 (BitVec.ofNat 32 (w % 2 ^ nbits))) with
  | .ok (i, _) => some i
  | .error _ => none

/-- The mnemonic of a command (R103, R107). -/
def Instr.mnemonic : Instr → String
  | .halt => "HALT"
  | .nop => "NOP"
  | .setup _ _ => "SETUP"
  | .capture => "CAPTURE"
  | .diff => "DIFF"
  | .compress => "COMPRESS"
  | .swap => "SWAP"
  | .iterate => "ITERATE"
  | .decompress => "DECOMPRESS"
  | .merge => "MERGE"
  | .receive => "RECEIVE"

/-- What the assembler has placed so far: the next address, the words and the labels (R107). DESIGN CHOICE, entry 18: with
no `.org` before it the first command lies at address 0, and a name that labels two places is listed twice. "A label `name:`
names the address of the next command", so a label waits in `pending` until a word is placed. -/
structure Assembly where
  next : Nat := 0
  words : List (Nat × Word) := []
  labels : List (String × Nat) := []
  pending : List String := []
  deriving DecidableEq, Repr

/-- One word placed at the next address; commands lie at 4-byte steps (R107). DESIGN CHOICE, entry 18: a word placed where one
lies already, after an `.org` that goes back, is listed beside it, a word of `.word` is named by the labels before it
as a command is, and an address at or above 2^32 neither wraps nor is rejected. -/
def Assembly.place (a : Assembly) (w : Word) : Assembly where
  next := a.next + 4
  words := a.words ++ [(a.next, w)]
  labels := a.labels ++ a.pending.map fun name => (name, a.next)
  pending := []

/-- One item of a list: `.org` sets the next address, also for the labels that wait, a pseudo-instruction places its expansion
(R107, R108). DESIGN CHOICE, entry 18: a label with no word after it stays in `pending` and names no address. -/
def Assembly.item (a : Assembly) : AsmItem → Assembly
  | .org n => { a with next := n }
  | .word v => a.place v
  | .label name => { a with pending := a.pending ++ [name] }
  | .cmd i => a.place (encodeWord i)
  | .pseudo p => p.expansion.foldl (fun b i => b.place (encodeWord i)) a

/-- A command list assembled; `none` where an item is ill formed (R107). -/
def assemble (items : List AsmItem) : Option Assembly :=
  if items.all AsmItem.wellFormed then some (items.foldl Assembly.item {}) else none

/-- The operand of SETUP in assembly: "`TX`, `RX` or `TX,RX` (in that order)" (R107). -/
def parseSides : List Char → Option (Bool × Bool)
  | ['T', 'X'] => some (true, false)
  | ['R', 'X'] => some (false, true)
  | ['T', 'X', ',', 'R', 'X'] => some (true, true)
  | _ => none

/-- The value of one digit in a base up to 16. -/
def parseDigit (base : Nat) (c : Char) : Option Nat :=
  let v := if '0' ≤ c ∧ c ≤ '9' then c.toNat - '0'.toNat
    else if 'a' ≤ c ∧ c ≤ 'f' then c.toNat - 'a'.toNat + 10
    else if 'A' ≤ c ∧ c ≤ 'F' then c.toNat - 'A'.toNat + 10
    else 16
  if v < base then some v else none

/-- The value of a non-empty digit sequence, continued from `acc`. -/
def parseDigits (base : Nat) : List Char → Nat → Option Nat
  | [], acc => some acc
  | c :: cs, acc => (parseDigit base c).bind fun v => parseDigits base cs (acc * base + v)

/-- A number in assembly: hexadecimal after `0x`, else decimal (entry 18). -/
def parseNumber : List Char → Option Nat
  | '0' :: 'x' :: c :: cs => parseDigits 16 (c :: cs) 0
  | c :: cs => parseDigits 10 (c :: cs) 0
  | [] => none

/-- The words of a line, split at spaces, the comment from `;` on left out (R107). -/
def parseWords : List Char → List Char → List (List Char)
  | [], cur => if cur.isEmpty then [] else [cur.reverse]
  | c :: cs, cur =>
    if c = ';' then (if cur.isEmpty then [] else [cur.reverse])
    else if c = ' ' then (if cur.isEmpty then parseWords cs [] else cur.reverse :: parseWords cs [])
    else parseWords cs (c :: cur)

/-- The commands of R103 that take no operand in assembly. -/
def plainMnemonics : List Instr :=
  [.halt, .nop, .capture, .diff, .compress, .swap, .iterate, .decompress, .merge, .receive]

/-- The item that a line's words after any label stand for (R107, R108). -/
def parseItem : List (List Char) → Option AsmItem
  | [w] =>
    if w = "TXCYCLE".toList then some (.pseudo .txcycle)
    else if w = "RXCYCLE".toList then some (.pseudo .rxcycle)
    else (plainMnemonics.find? fun i => i.mnemonic.toList = w).map .cmd
  | [w, arg] =>
    if w = "SETUP".toList then (parseSides arg).map fun p => .cmd (.setup p.1 p.2)
    else if w = ".org".toList then (parseNumber arg).map .org
    else if w = ".word".toList then
      (parseNumber arg).bind fun v => if v < 2 ^ 32 then some (.word (BitVec.ofNat 32 v)) else none
    else none
  | _ => none

/-- One line of assembly: at most one label `name:` first, then nothing or one item (R107). DESIGN CHOICE, entry 18: a label
stands alone or before an item, and its name is whatever stands before the colon, also nothing. -/
def parseLine (line : List Char) : Option (List AsmItem) :=
  match parseWords line [] with
  | [] => some []
  | w :: ws =>
    if w.getLast? = some ':' then
      let lab := AsmItem.label (String.ofList w.dropLast)
      if ws.isEmpty then some [lab] else (parseItem ws).map fun i => [lab, i]
    else (parseItem (w :: ws)).map fun i => [i]

/-- The items of a program, line by line; `none` where a line is no assembly (R107). -/
def parseLines : List String → Option (List AsmItem)
  | [] => some []
  | l :: ls => (parseLine l.toList).bind fun xs => (parseLines ls).map fun ys => xs ++ ys

end Sys2Proof
end

