-- ==== Sys2Proof/Config.lean ====
section
/-! DEFINITION. What an implementation of XFDE fixes (spec 00_scope R8) and the values the spec leaves open
(93_implementation_defined). The constants declared `opaque` are uninterpreted: no proof sees a value of them. -/

namespace Sys2Proof

/-- The codec parameter of R8: compressor, decompressor and worst-case bound. All three are total (R180 to R182). -/
structure Codec where
  enc : List Byte → List Byte
  dec : List Byte → Option (List Byte)
  bound : Nat → Nat

/-- The named laws of the codec: R181 (round trip), R182 (worst-case bound), R193 (non-empty body). -/
structure Codec.Lawful (c : Codec) : Prop where
  roundTrip : ∀ x, c.dec (c.enc x) = some x
  bounded : ∀ x, (c.enc x).length ≤ c.bound x.length
  nonEmpty : ∀ x, 1 ≤ x.length → 1 ≤ (c.enc x).length

/-- The test codec `ID` of 95_test_vectors section 0: "It is a test fixture only, not XFDE's codec." -/
def Codec.identity : Codec where
  enc := fun x => x
  dec := some
  bound := fun n => n

theorem Codec.identity_lawful : Codec.identity.Lawful where
  roundTrip _ := rfl
  bounded _ := Nat.le_refl _
  nonEmpty _ h := h

/-- A test codec that breaks R182, as V-CMP-5 of 95_test_vectors has one: "test only: enc returns 100 bytes". -/
def Codec.overflowing : Codec where
  enc := fun _ => List.replicate 100 0
  dec := fun _ => none
  bound := fun n => n

/-- A codec that meets the laws. The field defaults serve only to show that there is one. -/
structure LawfulCodec where
  codec : Codec := Codec.identity
  lawful : codec.Lawful := by exact Codec.identity_lawful
  deriving Inhabited

/-- Some lawful codec: the implementation's algorithm, of which nothing is known but the laws (R180). Entry 2. -/
opaque Config.lawfulCodec : LawfulCodec

/-- A compressor under no law, so that the model is total "when it is given a codec that breaks rule R182" (R191). Entry 2. -/
opaque Config.uncheckedEnc : List Byte → List Byte

/-- A decompressor under no law (R191). Entry 2. -/
opaque Config.uncheckedDec : List Byte → Option (List Byte)

/-- A bound under no law (R191). Entry 2. -/
opaque Config.uncheckedBound : Nat → Nat

/-- Which codec an instance is built with, as plain data (entry 2). -/
inductive CodecChoice where
  /-- the test codec `ID` of file 95 -/
  | identity
  /-- the implementation's own lawful codec, uninterpreted -/
  | given
  /-- a codec under no law -/
  | unchecked
  /-- the test codec of V-CMP-5 -/
  | overflowing
  deriving DecidableEq, Repr

/-- The codec that a choice names. -/
def CodecChoice.codec : CodecChoice → Codec
  | .identity => Codec.identity
  | .given => Config.lawfulCodec.codec
  | .unchecked => { enc := Config.uncheckedEnc, dec := Config.uncheckedDec, bound := Config.uncheckedBound }
  | .overflowing => Codec.overflowing

/-- How much larger than the least legal size this instance's engine memory is: 16 ≤ MEM_SIZE ≤ 2^32 (R8). Entry 1. -/
opaque Config.memSizeAbove16 : Fin 4294967281

/-- MEM_SIZE of the instance that comes out of reset (R8). Entry 1. -/
def Config.memSize : Nat := Config.memSizeAbove16.val + 16

/-- What each byte of engine memory holds at power-on: "any value, every byte" (R280, I8). Entry 3. -/
opaque Config.powerOnByte : Nat → Byte

/-- The n-th free byte drawn where a rule says `any` (R11, I5, I6, I9). Entry 4. -/
opaque Config.freeByte : Nat → Byte

/-- The platform address of the register block (R8); "XFDE never reads it". Entry 16. -/
opaque Config.regBase : Word

/-- The host interrupt that the IRQ line reaches (R250, D21); a platform matter. Entry 16. -/
opaque Config.irqLine : Nat

end Sys2Proof
end

