-- ==== Sys2Proof/Machine/State.lean ====
section
/-! DEFINITION. The state of one XFDE instance as plain data (spec 10_state, 70 R280), the reasons a step can stop, and
the state after reset. -/

namespace Sys2Proof.Machine

/-- The error codes of STATUS.ERRCODE (R240); "Codes 0x0A to 0xFF are never produced". -/
inductive ErrorCode where
  /-- 0x00 NONE -/
  | noError
  | illegalCmd
  | cmdFetchFault
  | noSession
  | bufferSizeMismatch
  | bufferRange
  | captureFailure
  | decompressionFailure
  | noPayload
  | cfOverflow
  deriving DecidableEq, Repr

/-- The two commands that wait for the capture agent (R52). -/
inductive WaitingCommand where
  | capture
  | iterate
  deriving DecidableEq, Repr

/-- The outstanding capture request `(base, n)` (R52, R150), with the command that issued it and that the answer lets
continue (R151). Entry 9. -/
structure CaptureRequest where
  base : Word
  len : Word
  command : WaitingCommand
  deriving DecidableEq, Repr

/-- The sequencer's phase (R52). A request is outstanding exactly in WAIT_CAPTURE. -/
inductive Phase where
  | idle
  | run
  | waitCapture (req : CaptureRequest)
  deriving DecidableEq, Repr

/-- The configuration registers that only the host writes (R37, R38, R40 to R45, R47, R48). WIDTH and HEIGHT hold their
16-bit fields; the bits above are RAZ/WI (R32). -/
structure ConfigRegs where
  width : BitVec 16
  height : BitVec 16
  slot0Base : Word
  slot1Base : Word
  scratchBase : Word
  reconBase : Word
  txcfBase : Word
  txcfCap : Word
  rxcfBase : Word
  rxcfSize : Word
  deriving DecidableEq, Repr

/-- The session values latched by SETUP (R50). `frameLen` is S.L, read as FRAME_LEN (R39). -/
structure Session where
  frameLen : Word
  slot0 : Word
  slot1 : Word
  scratch : Word
  recon : Word
  txcfBase : Word
  txcfCap : Word
  deriving DecidableEq, Repr

/-- The capture agent's answer (R151). -/
inductive CaptureAnswer where
  | ok (bytes : List Byte)
  | fail
  deriving DecidableEq, Repr

/-- The size of a host access to the register block (R53). -/
inductive AccessSize where
  | byte
  | half
  | word
  deriving DecidableEq, Repr

/-- What moves next: the engine, or one action of the host, the capture agent or reset (R14, R298). Entry 6. -/
inductive Turn where
  | engine
  /-- a host write to the register block, at a byte offset (R32, R53) -/
  | hostWrite (offset : BitVec 8) (size : AccessSize) (value : Word)
  /-- a host read of the register block; "Register reads have no side effects" (R53) -/
  | hostRead (offset : BitVec 8) (size : AccessSize)
  /-- a host write of one byte of engine memory (R81, R83) -/
  | hostStore (addr : Word) (value : Byte)
  /-- a host read of one byte of engine memory (R82, R83) -/
  | hostLoad (addr : Word)
  /-- the capture agent's answer to the outstanding request (R151) -/
  | captureAnswer (answer : CaptureAnswer)
  /-- an answer to a request that reset has withdrawn (R281) -/
  | lateAnswer (answer : CaptureAnswer)
  /-- the reset input (R281) -/
  | reset
  deriving DecidableEq, Repr

/-- Engine memory: the bytes that something has written, by address, addresses strictly rising. An address not listed
holds no value of the model's; what a read of it gives is `State.byteAt`'s to say. Entry 3. -/
abbrev Memory := List Host.Cell

/-- The state of one XFDE instance. -/
structure State where
  /-- the phase and the outstanding request (R52) -/
  phase : Phase
  /-- the command pointer (R31) -/
  cpc : Word
  /-- STATUS.DONE (R34) -/
  done : Bool
  /-- STATUS.ERR (R34) -/
  err : Bool
  /-- STATUS.ERRCODE (R34, R240) -/
  errCode : ErrorCode
  /-- STATUS.WIGN (R34, R49) -/
  wign : Bool
  /-- STATUS.TXV (R50) -/
  txv : Bool
  /-- STATUS.RXV (R50) -/
  rxv : Bool
  /-- STATUS.PREV_SEL (R51): false is slot 0, true is slot 1 -/
  prevSel : Bool
  /-- IRQ_EN.DONE_IE (R36) -/
  doneIe : Bool
  /-- IRQ_EN.ERR_IE (R36) -/
  errIe : Bool
  /-- the configuration registers -/
  regs : ConfigRegs
  /-- the latched session (R50) -/
  session : Session
  /-- TXCF_SIZE (R46) -/
  txcfSize : Word
  /-- MEM_SIZE of this instance (R8), the same in every state of a run. Entry 1 -/
  memSize : Nat
  /-- the codec this instance is built with (R8), the same in every state of a run. Entry 2 -/
  codecChoice : CodecChoice
  /-- engine memory (R72) -/
  mem : Memory
  /-- the model's own: how many free bytes have been drawn. Entry 4 -/
  draws : Nat
  /-- the model's own: what the agents do next, the first first. Entry 6 -/
  turns : List Turn
  deriving DecidableEq, Repr

/-- Why the machine stops. -/
inductive Fault where
  /-- An access to engine memory at or above MEM_SIZE, an address that does not exist (R73). Raised by a host memory
  access there (entry 10), and by a command whose buffers are not in memory, which no state that meets the invariant
  has (entry 11). Safe: the model stops. -/
  | outsideMemory
  deriving DecidableEq, Repr

/-- Why the model gives a step no meaning. -/
inductive Refusal where
  /-- An instruction with no meaning yet, by its mnemonic. Raised by `exec` alone; no arm raises it. Safe. -/
  | notModelled (mnemonic : String)
  /-- The host touched engine memory while STATUS.BUSY = 1: "A model refuses a state in which the host makes such an
  access" (R83). Raised by a host load or store turn. Safe. -/
  | hostMemoryAccessWhileBusy
  /-- The capture agent answered with another number of bytes than requested, which R8 and R151 rule out. Raised by a
  capture answer turn (entry 8). Safe. -/
  | captureAnswerLength
  deriving DecidableEq, Repr

/-- The configuration registers after reset (R280). -/
def ConfigRegs.reset : ConfigRegs where
  width := 0
  height := 0
  slot0Base := 0
  slot1Base := 0
  scratchBase := 0
  reconBase := 0
  txcfBase := 0
  txcfCap := 0
  rxcfBase := 0
  rxcfSize := 0

/-- The session after reset: S.L = 0 (R280). The other values are "any value; unobservable"; DESIGN CHOICE 0, entry 5. -/
def Session.reset : Session where
  frameLen := 0
  slot0 := 0
  slot1 := 0
  scratch := 0
  recon := 0
  txcfBase := 0
  txcfCap := 0

/-- The state of R280 at power-on, for an instance with a given MEM_SIZE and codec. -/
def State.powerOn (memSize : Nat) (codec : CodecChoice) : State where
  phase := .idle
  cpc := 0
  done := false
  err := false
  errCode := .noError
  wign := false
  txv := false
  rxv := false
  prevSel := false
  doneIe := false
  errIe := false
  regs := ConfigRegs.reset
  session := Session.reset
  txcfSize := 4
  memSize := memSize
  codecChoice := codec
  mem := []
  draws := 0
  turns := []

/-- The machine right after reset (R280), of uninterpreted MEM_SIZE and with the uninterpreted lawful codec. -/
def State.reset : State := State.powerOn Config.memSize .given

end Sys2Proof.Machine
end

