-- ==== Sys2Proof/Machine/Flags.lean ====
section
/-! DEFINITION. STATUS, IRQ_EN and the interrupt output (spec 10_state R34 to R36, R54; 60 R240, R250). -/

namespace Sys2Proof.Machine

/-- The value of an error code in STATUS.ERRCODE (R240). -/
def ErrorCode.toBits : ErrorCode → BitVec 8
  | .noError => 0x00
  | .illegalCmd => 0x01
  | .cmdFetchFault => 0x02
  | .noSession => 0x03
  | .bufferSizeMismatch => 0x04
  | .bufferRange => 0x05
  | .captureFailure => 0x06
  | .decompressionFailure => 0x07
  | .noPayload => 0x08
  | .cfOverflow => 0x09

/-- STATUS.BUSY: "1 exactly when the phase is not IDLE" (R52). -/
def State.busy (s : State) : Bool :=
  match s.phase with
  | .idle => false
  | .run => true
  | .waitCapture _ => true

/-- The STATUS word as the host reads it, bit 31 on the left (R34). -/
def State.statusWord (s : State) : Word :=
  (0#16) ++ s.errCode.toBits ++ (0#1) ++ BitVec.ofBool s.prevSel ++ BitVec.ofBool s.rxv ++ BitVec.ofBool s.txv ++
    BitVec.ofBool s.wign ++ BitVec.ofBool s.err ++ BitVec.ofBool s.done ++ BitVec.ofBool s.busy

/-- A host write to STATUS: a 1 in bit 1, 2 or 3 clears DONE, ERR with ERRCODE, or WIGN; nothing else changes (R34). -/
def State.writeStatus (s : State) (v : Word) : State :=
  { s with
    done := s.done && !v.getLsbD 1
    err := s.err && !v.getLsbD 2
    errCode := if v.getLsbD 2 then .noError else s.errCode
    wign := s.wign && !v.getLsbD 3 }

/-- The IRQ_EN word as the host reads it (R36). -/
def State.irqEnWord (s : State) : Word :=
  (0#29) ++ BitVec.ofBool s.errIe ++ BitVec.ofBool s.doneIe ++ (0#1)

/-- A host write to IRQ_EN: bits 1 and 2 are kept, the others are reserved (R36). -/
def State.writeIrqEn (s : State) (v : Word) : State :=
  { s with doneIe := v.getLsbD 1, errIe := v.getLsbD 2 }

/-- The interrupt output: `(DONE and DONE_IE) or (ERR and ERR_IE)` (R250). -/
def State.irq (s : State) : Bool :=
  (s.done && s.doneIe) || (s.err && s.errIe)

end Sys2Proof.Machine
end

