-- ==== Sys2Proof/Machine/Ops.lean ====
section
/-! DEFINITION. The operations that the commands share: engine memory (spec 00_scope R11, R12; 20_memory), the end of a
command, the error stop and the restart from it (60 R241, R245; 40 R130), and free values. -/

namespace Sys2Proof.Machine

/-- The outcome of a step or of a command. -/
abbrev Result := Host.Outcome State Fault Refusal

/-- The next state of an outcome, if it has one. -/
def nextState? : Result → Option State
  | .next s => some s
  | .fault _ => none
  | .refused _ => none

/-- The state with other turns to come (entry 6). -/
def State.withTurns (s : State) (turns : List Turn) : State := { s with turns := turns }

/-! ### Ranges -/

/-- The range `[base, base + len)` on unbounded naturals (R10, R12). -/
structure Range where
  base : Nat
  len : Nat
  deriving DecidableEq, Repr

/-- An address of the range. -/
def Range.has (r : Range) (a : Nat) : Bool := r.base ≤ a && a < r.base + r.len

/-- "Two ranges overlap when they share an address; a range of length 0 overlaps nothing" (R12). -/
def Range.overlaps (r q : Range) : Bool :=
  decide (0 < r.len) && decide (0 < q.len) && decide (r.base < q.base + q.len) && decide (q.base < r.base + r.len)

/-- No two ranges of the list overlap (R76). -/
def pairwiseDisjoint : List Range → Bool
  | [] => true
  | r :: rs => rs.all (fun q => !r.overlaps q) && pairwiseDisjoint rs

/-- A range is "in memory" when `base + len ≤ MEM_SIZE` (R12). -/
def State.inMemory (s : State) (r : Range) : Bool := decide (r.base + r.len ≤ s.memSize)

/-! ### Memory as data -/

/-- The byte that something has written at an address, if anything has. -/
def Memory.lookup : Memory → Nat → Option Byte
  | [], _ => none
  | (x, b) :: m, a => if a = x then some b else Memory.lookup m a

/-- Memory with one byte written; the addresses stay strictly rising. -/
def Memory.store : Memory → Nat → Byte → Memory
  | [], a, b => [(a, b)]
  | (x, c) :: m, a, b =>
    if a < x then (a, b) :: (x, c) :: m
    else if a = x then (a, b) :: m
    else (x, c) :: Memory.store m a b

/-- `WriteBytes(a, s)` on memory as data (R11). -/
def Memory.storeBytes : Memory → Nat → List Byte → Memory
  | m, _, [] => m
  | m, a, b :: bs => Memory.storeBytes (Memory.store m a b) (a + 1) bs

/-- The listed addresses rise strictly, from `lo` on. -/
def Memory.risingFrom : Nat → Memory → Bool
  | _, [] => true
  | lo, (x, _) :: m => decide (lo ≤ x) && Memory.risingFrom (x + 1) m

/-- The canonical form of memory: addresses strictly rising. An unlisted address holds no value, so no entry repeats
what an unlisted address reads as (entry 3). -/
def Memory.wf (m : Memory) : Bool := Memory.risingFrom 0 m

/-- Every listed address lies in memory (R73). -/
def Memory.below (size : Nat) (m : Memory) : Bool := m.all fun c => decide (c.1 < size)

/-! ### Reading and writing engine memory -/

/-- `mem[a]` (R11): the last byte written there, else the free value that power-on left (R73, R280; entry 3). -/
def State.byteAt (s : State) (a : Nat) : Byte := (s.mem.lookup a).getD (Config.powerOnByte a)

/-- `Bytes(a, n)` (R11). -/
def State.readBytes (s : State) (a n : Nat) : List Byte := (List.range n).map fun i => s.byteAt (a + i)

/-- `MemRead(a, n)` (R11). -/
def State.memRead (s : State) (a n : Nat) : Nat := leValue (s.readBytes a n)

/-- `WriteBytes(a, s)` (R11). -/
def State.writeBytes (s : State) (a : Nat) (bs : List Byte) : State := { s with mem := s.mem.storeBytes a bs }

/-- The little-endian bytes of a value, `n` of them, as `MemWrite` stores them (R11). -/
def leBytes : Nat → Nat → List Byte
  | 0, _ => []
  | n + 1, v => BitVec.ofNat 8 v :: leBytes n (v / 256)

/-- `MemWrite(a, n, v)` (R11). -/
def State.memWrite (s : State) (a n v : Nat) : State := s.writeBytes a (leBytes n v)

/-- `n` free bytes, the ones after the first `k` drawn (R11's `any`; entry 4). -/
def freeBytes (k n : Nat) : List Byte := (List.range n).map fun i => Config.freeByte (k + i)

/-- Every byte of a range becomes any value (R151, R189); the draws are used up. -/
def State.scramble (s : State) (a n : Nat) : State :=
  { s.writeBytes a (freeBytes s.draws n) with draws := s.draws + n }

/-- Goes on only when the ranges that are about to be touched exist; else the access faults (R73; entry 11). -/
def guardMemory (s : State) (rs : List Range) (k : Result) : Result :=
  if rs.all s.inMemory then k else .fault .outsideMemory

/-! ### The delta kernel -/

/-- `xorw(A, B)`, byte by byte, which R160 gives as equivalent to word by word. -/
def xorw (a b : List Byte) : List Byte := List.zipWith (· ^^^ ·) a b

/-! ### The codec -/

/-- The codec this instance is built with (R8). -/
def State.codec (s : State) : Codec := s.codecChoice.codec

/-! ### The end of a command -/

/-- `CPC <- (CPC + 4) mod 2^32` (R31). -/
def State.advance (s : State) : State := { s with cpc := s.cpc + 4 }

/-- A command other than HALT completes without error: CPC advances and the phase stays RUN (R131). -/
def complete (s : State) : Result := .next s.advance

/-- The error stop (R241): IDLE, ERR and ERRCODE written, CPC kept at the command that raised it. This is XFDE's one
form of taking an exception: "no mode change, no saved state beyond ERRCODE and CPC, no stack and no vector". -/
def State.raiseError (s : State) (code : ErrorCode) : State :=
  { s with phase := .idle, err := true, errCode := code }

/-- `raise Error(code)` as the end of a step (R241). -/
def raise (code : ErrorCode) (s : State) : Result := .next (s.raiseError code)

/-- What START does while idle (R130), which is also the way back from an error: "XFDE has no return-from-trap command"
(R245). -/
def State.startRun (s : State) : State :=
  { s with phase := .run, done := false, err := false, errCode := .noError }

/-! ### Side validity -/

/-- A sender command runs only with TXV = 1 (R137). -/
def requireTx (s : State) (k : Result) : Result := if s.txv then k else raise .noSession s

/-- A receiver command runs only with RXV = 1 (R137). -/
def requireRx (s : State) (k : Result) : Result := if s.rxv then k else raise .noSession s

end Sys2Proof.Machine
end

