-- ==== Sys2Proof/Machine/Operands.lean ====
section
/-! DEFINITION. The implicit operands of the commands: slot roles, buffer ranges, the live RXCF registers, and the checks
made on them (spec 10_state R51, 20_memory R75 to R77, 40 R135, 43 R187). -/

namespace Sys2Proof.Machine

/-- `prev = S.slot[PREV_SEL]` (R51). -/
def State.prevSlot (s : State) : Word := if s.prevSel then s.session.slot1 else s.session.slot0

/-- `cur = S.slot[1 - PREV_SEL]` (R51). -/
def State.curSlot (s : State) : Word := if s.prevSel then s.session.slot0 else s.session.slot1

/-- S.L as a natural. -/
def State.frameBytes (s : State) : Nat := s.session.frameLen.toNat

/-- The range of S.L bytes at a frame buffer (R75). -/
def State.frameRange (s : State) (base : Word) : Range := ⟨base.toNat, s.frameBytes⟩

/-- The `previous` slot's range (R51, R75). -/
def State.prevRange (s : State) : Range := s.frameRange s.prevSlot

/-- The `current` slot's range (R51, R75). -/
def State.curRange (s : State) : Range := s.frameRange s.curSlot

/-- The scratch range (R75). -/
def State.scratchRange (s : State) : Range := s.frameRange s.session.scratch

/-- The recon range (R75). -/
def State.reconRange (s : State) : Range := s.frameRange s.session.recon

/-- The TXCF range (R75). -/
def State.txcfRange (s : State) : Range := ⟨s.session.txcfBase.toNat, s.session.txcfCap.toNat⟩

/-- The RXCF range, from the live registers (R47, R48, R75). -/
def State.rxcfRange (s : State) : Range := ⟨s.regs.rxcfBase.toNat, s.regs.rxcfSize.toNat⟩

/-- The bytes of a frame buffer. -/
def State.frameAt (s : State) (base : Word) : List Byte := s.readBytes base.toNat s.frameBytes

/-! ### SETUP's checks -/

/-- `L <- W * H * 4` on unbounded naturals (R135). -/
def State.setupLen (s : State) : Nat := s.regs.width.toNat * s.regs.height.toNat * 4

/-- FB, the frame buffers that a SETUP selects (R135). -/
def State.setupBases (s : State) (t r : Bool) : List Word :=
  [s.regs.scratchBase] ++ (if t then [s.regs.slot0Base, s.regs.slot1Base] else []) ++
    (if r then [s.regs.reconBase] else [])

/-- RG, the ranges that a SETUP selects (R135). -/
def State.setupRanges (s : State) (t r : Bool) : List Range :=
  (s.setupBases t r).map (fun b => ⟨b.toNat, s.setupLen⟩) ++
    (if t then [⟨s.regs.txcfBase.toNat, s.regs.txcfCap.toNat⟩] else [])

/-- Check 1 of R135 fails: no width, no height, or an odd width. -/
def State.badGeometry (s : State) : Bool :=
  s.regs.width.toNat == 0 || s.regs.height.toNat == 0 || s.regs.width.toNat % 2 != 0

/-- Check 2 of R135 fails: the TXCF capacity is below `4 + Codec.bound(L)`, sender side only. -/
def State.badCapacity (s : State) (t : Bool) : Bool :=
  t && decide (s.regs.txcfCap.toNat < 4 + s.codec.bound s.setupLen)

/-- The first check of R135 that fails, in its order: geometry, capacity, alignment, range, overlap. -/
def State.setupError (s : State) (t r : Bool) : Option ErrorCode :=
  if s.badGeometry then some .bufferSizeMismatch
  else if s.badCapacity t then some .bufferSizeMismatch
  else if (s.setupBases t r).any (fun b => b.toNat % 8 != 0) then some .bufferRange
  else if (s.setupRanges t r).any (fun q => !s.inMemory q) then some .bufferRange
  else if !pairwiseDisjoint (s.setupRanges t r) then some .bufferRange
  else none

/-! ### The receiver's payload checks -/

/-- The first check of R187 that fails, in its order: session, range, overlap, size below 4, size 4, header. -/
def State.payloadError (s : State) : Option ErrorCode :=
  if !s.rxv then some .noSession
  else if !s.inMemory s.rxcfRange then some .bufferRange
  else if s.rxcfRange.overlaps s.scratchRange || s.rxcfRange.overlaps s.reconRange then some .bufferRange
  else if s.regs.rxcfSize.toNat < 4 then some .decompressionFailure
  else if s.regs.rxcfSize.toNat = 4 then some .noPayload
  else if s.memRead s.regs.rxcfBase.toNat 4 ≠ s.frameBytes then some .decompressionFailure
  else none

/-- The codec body of the received CompressedFrame: `Bytes(RXCF_BASE + 4, RXCF_SIZE - 4)` (R188). -/
def State.rxcfBody (s : State) : List Byte :=
  s.readBytes (s.regs.rxcfBase.toNat + 4) (s.regs.rxcfSize.toNat - 4)

end Sys2Proof.Machine
end

