-- ==== Sys2Proof/Machine/HostPort.lean ====
section
/-! DEFINITION. What the host can do: the register block (spec 10_state R32 to R49, R53), START (40 R130) and engine
memory (20_memory R81 to R83). -/

namespace Sys2Proof.Machine

/-- The sixteen registers of the block (R32). -/
inductive Register where
  | ctrl
  | status
  | irqEn
  | cpc
  | width
  | height
  | frameLen
  | slot0Base
  | slot1Base
  | scratchBase
  | reconBase
  | txcfBase
  | txcfCap
  | txcfSize
  | rxcfBase
  | rxcfSize
  deriving DecidableEq, Repr

/-- The register at an offset that is a multiple of 4; the others of the block are reserved (R32). -/
def registerAt (offset : BitVec 8) : Option Register :=
  match offset.toNat with
  | 0x00 => some .ctrl
  | 0x04 => some .status
  | 0x08 => some .irqEn
  | 0x0C => some .cpc
  | 0x10 => some .width
  | 0x14 => some .height
  | 0x18 => some .frameLen
  | 0x1C => some .slot0Base
  | 0x20 => some .slot1Base
  | 0x24 => some .scratchBase
  | 0x28 => some .reconBase
  | 0x2C => some .txcfBase
  | 0x30 => some .txcfCap
  | 0x34 => some .txcfSize
  | 0x38 => some .rxcfBase
  | 0x3C => some .rxcfSize
  | _ => none

/-- The platform address of a register's byte (R32): the block starts at REG_BASE. DESIGN CHOICE, entry 16: a
block that would pass 2^32 wraps. -/
def platformAddress (offset : BitVec 8) : Word := Config.regBase + offset.setWidth 32

/-- The value of a register (R32 to R48). -/
def State.registerValue (s : State) : Register → Word
  | .ctrl => 0
  | .status => s.statusWord
  | .irqEn => s.irqEnWord
  | .cpc => s.cpc
  | .width => s.regs.width.setWidth 32
  | .height => s.regs.height.setWidth 32
  | .frameLen => s.session.frameLen
  | .slot0Base => s.regs.slot0Base
  | .slot1Base => s.regs.slot1Base
  | .scratchBase => s.regs.scratchBase
  | .reconBase => s.regs.reconBase
  | .txcfBase => s.regs.txcfBase
  | .txcfCap => s.regs.txcfCap
  | .txcfSize => s.txcfSize
  | .rxcfBase => s.regs.rxcfBase
  | .rxcfSize => s.regs.rxcfSize

/-- An access to the block that reaches a register is 32 bits wide at a multiple of 4 (R53). -/
def fullAccess (offset : BitVec 8) (size : AccessSize) : Bool :=
  decide (size = .word) && offset.toNat % 4 == 0

/-- What a host read of the block returns (R32, R53): 0 for a narrow or misaligned access and at reserved offsets.
DESIGN CHOICE, entry 19: a read of TXCF_SIZE while busy, which R82 says the host may not make and R260 allows, returns the
register's current value. -/
def State.readReg (s : State) (offset : BitVec 8) (size : AccessSize) : Word :=
  if fullAccess offset size then
    match registerAt offset with
    | some g => s.registerValue g
    | none => 0
  else 0

/-- A host write that is ignored because the engine is busy sets WIGN (R49). -/
def State.ignoreWrite (s : State) : State := { s with wign := true }

/-- A write to CPC or a configuration register: it takes effect while idle, and is ignored while busy (R49). -/
def State.writeIdle (s : State) (written : State) : State := if s.busy then s.ignoreWrite else written

/-- A write to CTRL (R33): START while idle (R130), ignored with WIGN while busy; bit 0 = 0 has no effect. -/
def State.writeCtrl (s : State) (v : Word) : State :=
  if v.getLsbD 0 then s.writeIdle s.startRun else s

/-- A full write to a register (R33, R34, R36 to R49). Read-only registers ignore it. -/
def State.writeRegister (s : State) (v : Word) : Register → State
  | .ctrl => s.writeCtrl v
  | .status => s.writeStatus v
  | .irqEn => s.writeIrqEn v
  | .cpc => s.writeIdle { s with cpc := v }
  | .width => s.writeIdle { s with regs := { s.regs with width := v.extractLsb' 0 16 } }
  | .height => s.writeIdle { s with regs := { s.regs with height := v.extractLsb' 0 16 } }
  | .frameLen => s
  | .slot0Base => s.writeIdle { s with regs := { s.regs with slot0Base := v } }
  | .slot1Base => s.writeIdle { s with regs := { s.regs with slot1Base := v } }
  | .scratchBase => s.writeIdle { s with regs := { s.regs with scratchBase := v } }
  | .reconBase => s.writeIdle { s with regs := { s.regs with reconBase := v } }
  | .txcfBase => s.writeIdle { s with regs := { s.regs with txcfBase := v } }
  | .txcfCap => s.writeIdle { s with regs := { s.regs with txcfCap := v } }
  | .txcfSize => s
  | .rxcfBase => s.writeIdle { s with regs := { s.regs with rxcfBase := v } }
  | .rxcfSize => s.writeIdle { s with regs := { s.regs with rxcfSize := v } }

/-- A host write to the block (R32, R53): a narrow or misaligned write, and one to a reserved offset, is ignored and sets
no WIGN. -/
def State.writeReg (s : State) (offset : BitVec 8) (size : AccessSize) (v : Word) : State :=
  if fullAccess offset size then
    match registerAt offset with
    | some g => s.writeRegister v g
    | none => s
  else s

/-- A host access to one byte of engine memory: refused while busy (R83); outside memory there is no byte (R73;
entry 10). -/
def hostMemory (s : State) (addr : Word) (k : Result) : Result :=
  if s.busy then .refused .hostMemoryAccessWhileBusy
  else guardMemory s [⟨addr.toNat, 1⟩] k

/-- A host write of one byte of engine memory (R81). -/
def hostStore (addr : Word) (value : Byte) (s : State) : Result :=
  hostMemory s addr (.next (s.writeBytes addr.toNat [value]))

/-- A host read of one byte of engine memory; "a read has no side effect" (R73), its value is `State.byteAt`. -/
def hostLoad (addr : Word) (s : State) : Result := hostMemory s addr (.next s)

end Sys2Proof.Machine
end

