-- ==== Sys2Proof/Machine/Control.lean ====
section
/-! DEFINITION. HALT, NOP and SETUP (spec 40_session_control R133 to R136, R139). -/

namespace Sys2Proof.Machine

/-- HALT (R133). -/
def execHalt (s : State) : Result := .next { s.advance with phase := .idle, done := true }

/-- NOP (R134): "nothing; the sequencer advances CPC by 4". -/
def execNop (s : State) : Result := complete s

/-- `L` zero bytes. -/
def zeros (n : Nat) : List Byte := List.replicate n 0

/-- The session values that a SETUP latches (R136); a value of a side that is not selected keeps its old content (R50). -/
def State.setupValues (s : State) (t r : Bool) : Session where
  frameLen := BitVec.ofNat 32 s.setupLen
  slot0 := if t then s.regs.slot0Base else s.session.slot0
  slot1 := if t then s.regs.slot1Base else s.session.slot1
  scratch := s.regs.scratchBase
  recon := if r then s.regs.reconBase else s.session.recon
  txcfBase := if t then s.regs.txcfBase else s.session.txcfBase
  txcfCap := if t then s.regs.txcfCap else s.session.txcfCap

/-- The sender side's writes: both slots zero-filled, then the header of the header-only payload, `LE32(L)` (R136). -/
def State.setupSenderMemory (s : State) (m : Memory) : Memory :=
  ((m.storeBytes s.regs.slot0Base.toNat (zeros s.setupLen)).storeBytes s.regs.slot1Base.toNat
    (zeros s.setupLen)).storeBytes s.regs.txcfBase.toNat (le32 (BitVec.ofNat 32 s.setupLen))

/-- The memory that a SETUP leaves: scratch zero-filled, then each selected side's buffers (R136). -/
def State.setupMemory (s : State) (t r : Bool) : Memory :=
  let m1 := s.mem.storeBytes s.regs.scratchBase.toNat (zeros s.setupLen)
  let m2 := if t then s.setupSenderMemory m1 else m1
  if r then m2.storeBytes s.regs.reconBase.toNat (zeros s.setupLen) else m2

/-- The session that a SETUP with passing checks constructs (R136). -/
def State.setupSession (s : State) (t r : Bool) : State :=
  { s with
    session := s.setupValues t r
    txv := t
    rxv := r
    prevSel := if t then false else s.prevSel
    txcfSize := if t then 4 else s.txcfSize
    mem := s.setupMemory t r }

/-- SETUP (R135, R136, R139). A SETUP with neither side is no command: ILLEGAL_CMD (R102 case 4; entry 14). -/
def execSetup (t r : Bool) (s : State) : Result :=
  if !t && !r then raise .illegalCmd s
  else
    match s.setupError t r with
    | some e => raise e s
    | none => complete (s.setupSession t r)

end Sys2Proof.Machine
end

