-- ==== Sys2Proof/Machine/CodecKernel.lean ====
section
/-! DEFINITION. The codec kernel: COMPRESS and DECOMPRESS (spec 43_codec R183 to R191). -/

namespace Sys2Proof.Machine

/-- `Codec.enc(Bytes(S.scratch, S.L))` (R185). -/
def State.payloadBody (s : State) : List Byte := s.codec.enc (s.frameAt s.session.scratch)

/-- The range of TXCF bytes that COMPRESS writes and no others (R184). -/
def State.payloadRange (s : State) : Range := ⟨s.session.txcfBase.toNat, 4 + s.payloadBody.length⟩

/-- The payload written over TXCF, header and body, and TXCF_SIZE (R183, R185). -/
def State.writePayload (s : State) : State :=
  { s.writeBytes s.session.txcfBase.toNat (le32 s.session.frameLen ++ s.payloadBody) with
    txcfSize := BitVec.ofNat 32 (4 + s.payloadBody.length) }

/-- The compress step that COMPRESS and ITERATE share, then what follows it. A body that does not fit is CF_OVERFLOW,
with nothing written to TXCF (R185, R191). -/
def compressThen (s : State) (k : State → Result) : Result :=
  guardMemory s [s.scratchRange]
    (if s.session.txcfCap.toNat < 4 + s.payloadBody.length then raise .cfOverflow s
     else guardMemory s [s.payloadRange] (k s.writePayload))

/-- A codec-stage failure: every byte of scratch becomes any value (R189), then the error stop. -/
def decompressFailure (s : State) : Result :=
  raise .decompressionFailure (s.scramble s.session.scratch.toNat s.frameBytes)

/-- The decompress step that DECOMPRESS and RECEIVE share: the checks of R187, the codec, scratch written (R188); then
what follows it, given the decoded bytes. -/
def decompressThen (s : State) (k : List Byte → State → Result) : Result :=
  match s.payloadError with
  | some e => raise e s
  | none =>
    guardMemory s [s.scratchRange]
      (match s.codec.dec s.rxcfBody with
       | none => decompressFailure s
       | some r =>
         if r.length = s.frameBytes then k r (s.writeBytes s.session.scratch.toNat r) else decompressFailure s)

/-- COMPRESS (R185). -/
def execCompress (s : State) : Result := requireTx s (compressThen s complete)

/-- DECOMPRESS (R188). -/
def execDecompress (s : State) : Result := decompressThen s fun _ s1 => complete s1

end Sys2Proof.Machine
end

