-- ==== Sys2Proof/Machine/Delta.lean ====
section
/-! DEFINITION. The delta kernel: DIFF and MERGE (spec 42_delta R160, R161, R163, R164). -/

namespace Sys2Proof.Machine

/-- The delta of `current` against `previous`, into scratch:
`WriteBytes(S.scratch, xorw(Bytes(cur, S.L), Bytes(prev, S.L)))` (R161). -/
def State.writeDelta (s : State) : State :=
  s.writeBytes s.session.scratch.toNat (xorw (s.frameAt s.curSlot) (s.frameAt s.prevSlot))

/-- The delta step that DIFF and ITERATE share, then what follows it. -/
def deltaThen (s : State) (k : State → Result) : Result :=
  guardMemory s [s.curRange, s.prevRange, s.scratchRange] (k s.writeDelta)

/-- `merge_into(S.recon, X)` (R163). -/
def State.mergeInto (s : State) (x : List Byte) : State :=
  s.writeBytes s.session.recon.toNat (xorw (s.frameAt s.session.recon) x)

/-- The merge step that MERGE and RECEIVE share, then what follows it. -/
def mergeThen (s : State) (x : List Byte) (k : State → Result) : Result :=
  guardMemory s [s.reconRange] (k (s.mergeInto x))

/-- DIFF (R161). -/
def execDiff (s : State) : Result := requireTx s (deltaThen s complete)

/-- MERGE (R164). -/
def execMerge (s : State) : Result :=
  requireRx s (guardMemory s [s.scratchRange] (mergeThen s (s.frameAt s.session.scratch) complete))

end Sys2Proof.Machine
end

