-- ==== Sys2Proof/Machine/Receiver.lean ====
section
/-! DEFINITION. The receiver pipeline: RECEIVE (spec 45_receiver R220). -/

namespace Sys2Proof.Machine

/-- RECEIVE (R220): decompress into scratch, then merge the decoded bytes into recon; recon is written by no failure. -/
def execReceive (s : State) : Result := decompressThen s fun r s1 => mergeThen s1 r complete

end Sys2Proof.Machine
end

