-- ==== Sys2Proof/Machine/Capture.lean ====
section
/-! DEFINITION. The capture request (spec 41_capture R150) and CAPTURE (R152). -/

namespace Sys2Proof.Machine

/-- A command issues its one request, `base` the current slot and `n` the frame length, and waits (R150). -/
def State.requestCapture (s : State) (command : WaitingCommand) : State :=
  { s with phase := .waitCapture { base := s.curSlot, len := s.session.frameLen, command := command } }

/-- CAPTURE (R152): the step that issues the request. The answer ends the command (`answerCapture`). -/
def execCapture (s : State) : Result := requireTx s (.next (s.requestCapture .capture))

end Sys2Proof.Machine
end

