-- ==== Sys2Proof/Machine/Sender.lean ====
section
/-! DEFINITION. The sender pipeline: SWAP and ITERATE (spec 44_sender R200, R201), and how a command that waited for the
capture agent ends (41_capture R151, R152, R154). -/

namespace Sys2Proof.Machine

/-- `PREV_SEL <- 1 - PREV_SEL` (R200). -/
def State.swapSlots (s : State) : State := { s with prevSel := !s.prevSel }

/-- SWAP (R200). -/
def execSwap (s : State) : Result := requireTx s (complete s.swapSlots)

/-- ITERATE's step 1: the step that issues the request (R201). The answer lets it go on (`answerCapture`). -/
def execIterate (s : State) : Result := requireTx s (.next (s.requestCapture .iterate))

/-- ITERATE's steps 2 to 4, after the capture: delta, compress, swap (R201). -/
def finishIterate (s : State) : Result :=
  deltaThen s fun s1 => compressThen s1 fun s2 => complete s2.swapSlots

/-- The captured bytes land, the request ends and the phase is RUN again (R151). -/
def State.captured (s : State) (req : CaptureRequest) (bytes : List Byte) : State :=
  { s.writeBytes req.base.toNat bytes with phase := .run }

/-- A failed capture: every byte of the requested range becomes any value, the phase is RUN again (R151). -/
def State.captureFailed (s : State) (req : CaptureRequest) : State :=
  { s.scramble req.base.toNat req.len.toNat with phase := .run }

/-- The command that issued the request continues from its capture step (R151): CAPTURE ends (R152), ITERATE goes on to
its steps 2 to 4 (R201). -/
def resumeCommand (command : WaitingCommand) (s : State) : Result :=
  match command with
  | .capture => complete s
  | .iterate => finishIterate s

/-- The capture agent's answer to the outstanding request (R151): `ok` lets the command go on, `fail` raises
CAPTURE_FAILURE (R154). An answer of the wrong length is none (entry 8). -/
def answerRequest (req : CaptureRequest) (answer : CaptureAnswer) (s : State) : Result :=
  guardMemory s [⟨req.base.toNat, req.len.toNat⟩]
    (match answer with
     | .ok bytes =>
       if bytes.length = req.len.toNat then resumeCommand req.command (s.captured req bytes)
       else .refused .captureAnswerLength
     | .fail => raise .captureFailure (s.captureFailed req))

/-- An answer turn: it ends the wait in WAIT_CAPTURE, and with no request outstanding it is discarded (R151, R281). -/
def answerCapture (answer : CaptureAnswer) (s : State) : Result :=
  match s.phase with
  | .waitCapture req => answerRequest req answer s
  | .idle => .next s
  | .run => .next s

end Sys2Proof.Machine
end

