-- ==== Sys2Proof/Machine/Dispatch.lean ====
section
/-! DEFINITION. One arm per command of R103, each one call of its meaning. -/

namespace Sys2Proof.Machine

def exec (i : Instr) (s : State) : Host.Outcome State Fault Refusal :=
  match i with
  | .halt => Sys2Proof.Machine.execHalt s
  | .nop => Sys2Proof.Machine.execNop s
  | .setup t r => Sys2Proof.Machine.execSetup t r s
  | .capture => Sys2Proof.Machine.execCapture s
  | .diff => Sys2Proof.Machine.execDiff s
  | .compress => Sys2Proof.Machine.execCompress s
  | .swap => Sys2Proof.Machine.execSwap s
  | .iterate => Sys2Proof.Machine.execIterate s
  | .decompress => Sys2Proof.Machine.execDecompress s
  | .merge => Sys2Proof.Machine.execMerge s
  | .receive => Sys2Proof.Machine.execReceive s

end Sys2Proof.Machine
end

