-- ==== Sys2Proof/Machine/Sequencer.lean ====
section
/-! DEFINITION. The command sequencer: fetch, decode and one engine step (spec 30_encoding R101, R102; 40 R131). -/

namespace Sys2Proof.Machine

/-- A fetch needs CPC to be a multiple of 4 and `CPC + 4 ≤ MEM_SIZE` (R31, R101). -/
def State.fetchOk (s : State) : Bool := s.cpc.toNat % 4 == 0 && decide (s.cpc.toNat + 4 ≤ s.memSize)

/-- The bytes of the command at CPC, read at the moment of the fetch (R86, R101). -/
def State.fetchBytes (s : State) : List Byte := s.readBytes s.cpc.toNat 4

/-- The command at CPC, or the error that its fetch or its decode raises (R101, R102, R243). -/
def State.fetch (s : State) : Except ErrorCode Instr :=
  if s.fetchOk then
    match decode s.fetchBytes with
    | .ok (i, _) => .ok i
    | .error _ => .error .illegalCmd
  else .error .cmdFetchFault

/-- One engine step (R131): fetch, decode, execute in phase RUN. "While the phase is IDLE the engine has no step", and in
WAIT_CAPTURE only an answer or reset ends the wait (R153): nothing changes (entry 7). -/
def engineStep (s : State) : Result :=
  match s.phase with
  | .run =>
    match s.fetch with
    | .ok i => exec i s
    | .error e => raise e s
  | .idle => .next s
  | .waitCapture _ => .next s

end Sys2Proof.Machine
end

