-- ==== Sys2Proof/Machine/Reset.lean ====
section
/-! DEFINITION. The reset input (spec 70_reset_and_hazards R280, R281). -/

namespace Sys2Proof.Machine

/-- The ranges that an aborted command writes by its rule (R281). A command that its checks would turn away writes
nothing (R242). -/
def State.writtenRanges (s : State) : Instr → List Range
  | .halt => []
  | .nop => []
  | .setup t r => if (s.setupError t r).isNone then s.setupRanges t r else []
  | .capture => if s.txv then [s.curRange] else []
  | .diff => if s.txv then [s.scratchRange] else []
  | .compress => if s.txv then [s.txcfRange] else []
  | .swap => []
  | .iterate => if s.txv then [s.curRange, s.scratchRange, s.txcfRange] else []
  | .decompress => if s.payloadError.isNone then [s.scratchRange] else []
  | .merge => if s.rxv then [s.reconRange] else []
  | .receive => if s.payloadError.isNone then [s.scratchRange, s.reconRange] else []

/-- The ranges that a reset leaves at any value (R281): of the command that waits in WAIT_CAPTURE, or of the command at
CPC in phase RUN (entry 12); none when idle (entry 12). -/
def State.abortedRanges (s : State) : List Range :=
  match s.phase with
  | .idle => []
  | .run =>
    match s.fetch with
    | .ok i => s.writtenRanges i
    | .error _ => []
  | .waitCapture req =>
    match req.command with
    | .capture => s.writtenRanges .capture
    | .iterate => s.writtenRanges .iterate

/-- The part of a range that is in memory: reset never touches an address that does not exist (entry 12). -/
def State.clip (s : State) (r : Range) : Range := ⟨r.base, min r.len (s.memSize - r.base)⟩

/-- A range left at any value, as far as it is in memory. -/
def State.scrambleRange (s : State) (r : Range) : State := s.scramble (s.clip r).base (s.clip r).len

/-- Reset (R280, R281): the aborted command's bytes become any value, other memory is kept, and every register has its
reset value. The instance, its memory, the draws and the turns to come go on. -/
def State.takeReset (s : State) : State :=
  let s1 := s.abortedRanges.foldl State.scrambleRange s
  { State.powerOn s.memSize s.codecChoice with mem := s1.mem, draws := s1.draws, turns := s.turns }

end Sys2Proof.Machine
end

