-- ==== Sys2Proof/Machine/Agents.lean ====
section
/-! DEFINITION. One turn of one agent (spec 00_scope R14, 70 R298; entry 6). -/

namespace Sys2Proof.Machine

/-- What a turn does. Every host write, capture answer and reset lands between engine steps (R78, R252). -/
def takeTurn (t : Turn) (s : State) : Result :=
  match t with
  | .engine => engineStep s
  | .hostWrite offset size value => .next (s.writeReg offset size value)
  | .hostRead _ _ => .next s
  | .hostStore addr value => hostStore addr value s
  | .hostLoad addr => hostLoad addr s
  | .captureAnswer answer => answerCapture answer s
  | .lateAnswer _ => .next s
  | .reset => .next s.takeReset

/-- The machine's step: the first turn is taken; with none to come the engine moves (entry 6). -/
def nextTurn (s : State) : Result :=
  match s.turns with
  | [] => engineStep s
  | t :: rest => takeTurn t (s.withTurns rest)

/-- A word's low `nbits` bits stored at CPC as the hardware stores a command (R70, R107). -/
def State.placeWord (s : State) (nbits w : Nat) : State :=
  s.writeBytes s.cpc.toNat (le32 (BitVec.ofNat 32 (w % 2 ^ nbits)))

/-- CPC kept where a command can be fetched from it, else 0, from where one can be fetched in every instance (R31, R8). -/
def State.fetchableCpc (s : State) : State := if s.fetchOk then s else { s with cpc := 0 }

/-- A host's preparation of one command (R283): the word in memory at CPC, START, and the engine's turn next. -/
def State.prepareWord (s : State) (nbits w : Nat) : State :=
  ((s.fetchableCpc.placeWord nbits w).startRun).withTurns (.engine :: s.turns)

end Sys2Proof.Machine
end

