-- ==== Sys2Proof/Machine/Step.lean ====
section
/-! DEFINITION. The one step of the machine, and a command placed where the step fetches it. -/

namespace Sys2Proof.Machine

/-- One step of the instance and the agents around it (R14, R131, R298). -/
def step (s : State) : Host.Outcome State Fault Refusal := nextTurn s

/-- The state with an instruction placed so that the very next step fetches and runs it (entry 13). -/
def State.withFetchWord (s : State) (nbits w : Nat) : State := s.prepareWord nbits w

end Sys2Proof.Machine
end

