-- ==== Sys2Proof/Safety.lean ====
section
/-! DEFINITION. The invariants of a run, in the terms that claims use (spec 10_state R35, R50; 20_memory R75, R76; 40 R135;
41 R150), and the composite runs that claims are about. -/

namespace Sys2Proof.Machine

/-- "Invariants of STATUS that every rule keeps" (R35). -/
structure State.StatusInv (s : State) : Prop where
  busyClear : s.busy = true → s.done = false ∧ s.err = false
  notBoth : ¬(s.done = true ∧ s.err = true)
  noErrorCode : s.err = false → s.errCode = .noError
  errorCode : s.err = true → s.errCode ≠ .noError

/-- MEM_SIZE is legal (R8) and memory is in its canonical form, with no byte outside it (R73). -/
structure State.MemoryInv (s : State) : Prop where
  sizeLow : 16 ≤ s.memSize
  sizeHigh : s.memSize ≤ 2 ^ 32
  wf : s.mem.wf = true
  below : s.mem.below s.memSize = true

/-- The frame buffers of the sides that are set up (R74, R76). -/
def State.sessionBases (s : State) : List Word :=
  (if s.txv || s.rxv then [s.session.scratch] else []) ++
    (if s.txv then [s.session.slot0, s.session.slot1] else []) ++ (if s.rxv then [s.session.recon] else [])

/-- The ranges of the sides that are set up (R75, R76). -/
def State.sessionRanges (s : State) : List Range :=
  s.sessionBases.map s.frameRange ++ (if s.txv then [s.txcfRange] else [])

/-- What SETUP has checked of the session (R75, R135), and TXCF_SIZE (R46, R184). -/
structure State.SessionInv (s : State) : Prop where
  frame : (s.txv || s.rxv) = true → 8 ≤ s.frameBytes ∧ s.frameBytes % 8 = 0
  aligned : ∀ b ∈ s.sessionBases, b.toNat % 8 = 0
  inMemory : ∀ q ∈ s.sessionRanges, s.inMemory q = true
  disjoint : pairwiseDisjoint s.sessionRanges = true
  capacity : s.txv = true → 4 + s.codec.bound s.frameBytes ≤ s.session.txcfCap.toNat
  sizeLow : 4 ≤ s.txcfSize.toNat
  sizeHigh : s.txv = true → s.txcfSize.toNat ≤ s.session.txcfCap.toNat

/-- In WAIT_CAPTURE the outstanding request is for the current slot of a sender session (R52, R150). -/
def State.WaitInv (s : State) : Prop :=
  ∀ req, s.phase = .waitCapture req → s.txv = true ∧ req.base = s.curSlot ∧ req.len = s.session.frameLen

/-- The invariant of every run. -/
structure State.Inv (s : State) : Prop where
  status : s.StatusInv
  memory : s.MemoryInv
  session : s.SessionInv
  wait : s.WaitInv

/-- The next turn is the engine's: it is the first of the turns, or there is none to come (entry 6). -/
def State.engineMoves (s : State) : Prop := s.turns = [] ∨ ∃ rest, s.turns = .engine :: rest

/-- The engine executes one command and, if it then waits, the capture agent gives the answer. -/
def execAnswered (i : Instr) (answer : CaptureAnswer) (s : State) : Result :=
  match exec i s with
  | .next t =>
    match t.phase with
    | .waitCapture _ => answerCapture answer t
    | .idle => .next t
    | .run => .next t
  | .fault f => .fault f
  | .refused f => .refused f

/-- The engine executes the commands of a list, each with the same answer at its wait, and stops at the first that leaves
phase RUN (R131, R241). -/
def execList (answer : CaptureAnswer) : List Instr → State → Result
  | [], s => .next s
  | i :: is, s =>
    match execAnswered i answer s with
    | .next t => if t.phase = .run then execList answer is t else .next t
    | .fault f => .fault f
    | .refused f => .refused f

/-- One ITERATE for each capture of the list, in order, each answered `ok`; a failed one ends the list (R204). -/
def iterateAll : List (List Byte) → State → Result
  | [], s => .next s
  | f :: fs, s =>
    match execAnswered .iterate (.ok f) s with
    | .next t => if t.phase = .run then iterateAll fs t else .next t
    | .fault e => .fault e
    | .refused e => .refused e

/-- One word of DIFF's loop: `MemWrite(S.scratch + 8k, 8, MemRead(cur + 8k, 8) ^ MemRead(prev + 8k, 8))` (R161). -/
def State.diffWord (s : State) (k : Nat) : State :=
  s.memWrite (s.session.scratch.toNat + 8 * k) 8
    (s.memRead (s.curSlot.toNat + 8 * k) 8 ^^^ s.memRead (s.prevSlot.toNat + 8 * k) 8)

/-- One word of MERGE's loop: `MemWrite(S.recon + 8k, 8, MemRead(S.recon + 8k, 8) ^ MemRead(S.scratch + 8k, 8))`
(R164). -/
def State.mergeWord (s : State) (k : Nat) : State :=
  s.memWrite (s.session.recon.toNat + 8 * k) 8
    (s.memRead (s.session.recon.toNat + 8 * k) 8 ^^^ s.memRead (s.session.scratch.toNat + 8 * k) 8)

end Sys2Proof.Machine
end

