-- ==== Sys2Proof/Certificates/Slice0/Obligations.lean ====
section
/-! DEFINITION. The statements for the provers. Each docstring names the rules of spec/ that the statement is about. -/

open Sys2Proof Sys2Proof.Machine

/-! ### Encoding, fetch, decode -/

/-- The words of R103's table, written out, decode to their commands, and the eleven illegal words of V-DEC-1 to V-DEC-11
decode to none. -/
def Obligations.WrittenOutWordsDecode : Prop :=
  decodeWord 0x00000001 = .ok .halt ∧ decodeWord 0x00000002 = .ok .nop ∧
  decodeWord 0x00000103 = .ok (.setup true false) ∧ decodeWord 0x00000203 = .ok (.setup false true) ∧
  decodeWord 0x00000303 = .ok (.setup true true) ∧
  decodeWord 0x00000010 = .ok .capture ∧ decodeWord 0x00000011 = .ok .diff ∧ decodeWord 0x00000012 = .ok .compress ∧
  decodeWord 0x00000013 = .ok .swap ∧ decodeWord 0x00000014 = .ok .iterate ∧
  decodeWord 0x00000020 = .ok .decompress ∧ decodeWord 0x00000021 = .ok .merge ∧ decodeWord 0x00000022 = .ok .receive ∧
  decodeWord 0x00000000 = .error .unknownOpcode ∧ decodeWord 0x00000102 = .error .reservedBits ∧
  decodeWord 0x00000003 = .error .setupNoSide ∧ decodeWord 0x00000703 = .error .setupReservedBits ∧
  decodeWord 0x80000011 = .error .reservedBits ∧
  decodeWord 0x00000015 = .error .unknownOpcode ∧ decodeWord 0x0000001F = .error .unknownOpcode ∧
  decodeWord 0x00000023 = .error .unknownOpcode ∧ decodeWord 0x000000FF = .error .unknownOpcode ∧
  decodeWord 0x00000004 = .error .unknownOpcode ∧ decodeWord 0x00000122 = .error .reservedBits

/-- Decoding the bytes of a well-formed command gives the command back and leaves the bytes after it (R100, R103, R106). -/
def Obligations.DecodeUndoesEncode : Prop :=
  ∀ (i : Instr) (rest : List Byte), i.wellFormed = true → decode (encode i ++ rest) = .ok (i, rest)

/-- R102 whole: a word is illegal exactly in the four cases, an illegal word at CPC raises ILLEGAL_CMD with nothing else
written, and every other word is the encoding of exactly one command, which it decodes to. -/
def Obligations.EveryWordIsOneCommandOrIllegal : Prop :=
  ∀ w : Word,
    let op := w.extractLsb' 0 8
    let illegal := (op ∉ [0x01, 0x02, 0x03, 0x10, 0x11, 0x12, 0x13, 0x14, 0x20, 0x21, 0x22]) ∨
      (op ≠ 0x03 ∧ w.extractLsb' 8 24 ≠ 0) ∨ (op = 0x03 ∧ w.extractLsb' 10 22 ≠ 0) ∨
      (op = 0x03 ∧ w.extractLsb' 8 2 = 0)
    (illegal → (∀ i, i.wellFormed = true → encodeWord i ≠ w) ∧
      ∀ s : State, s.phase = .run → s.engineMoves → s.cpc.toNat % 4 = 0 → s.cpc.toNat + 4 ≤ s.memSize →
        s.memRead s.cpc.toNat 4 = w.toNat →
          step s = .next { s with turns := s.turns.tail, phase := .idle, err := true, errCode := .illegalCmd }) ∧
    (¬illegal → ∃ i, (i.wellFormed = true ∧ encodeWord i = w ∧ decodeWord w = .ok i) ∧
      ∀ j, j.wellFormed = true → encodeWord j = w → j = i)

/-- R101: in phase RUN the engine's turn fetches at CPC; a misaligned or absent word is CMD_FETCH_FAULT, with nothing but
STATUS and the phase written; a word that decodes is executed. -/
def Obligations.StepRunsTheCommandAtCpc : Prop :=
  ∀ (s : State) (rest : List Turn), s.phase = .run → (s.turns = .engine :: rest ∨ (s.turns = [] ∧ rest = [])) →
    (s.cpc.toNat % 4 ≠ 0 ∨ s.cpc.toNat + 4 > s.memSize →
      step s = .next { s with turns := rest, phase := .idle, err := true, errCode := .cmdFetchFault }) ∧
    (∀ i, s.cpc.toNat % 4 = 0 → s.cpc.toNat + 4 ≤ s.memSize →
      decodeWord (BitVec.ofNat 32 (s.memRead s.cpc.toNat 4)) = .ok i → step s = exec i { s with turns := rest })

/-- R131: an engine step that answers a next state ends in exactly one of four ways: a command other than HALT completed,
HALT stopped the run, an error stopped it, or CAPTURE or ITERATE waits. -/
def Obligations.EngineStepEndsInOneOfFourWays : Prop :=
  ∀ s u : State, s.StatusInv → s.phase = .run → s.engineMoves → step s = .next u →
    ((∃ i, s.fetch = .ok i ∧ i ≠ .halt) ∧ u.phase = .run ∧ u.cpc = s.cpc + 4 ∧ u.err = false ∧ u.done = false) ∨
    (s.fetch = .ok .halt ∧ u.phase = .idle ∧ u.cpc = s.cpc + 4 ∧ u.err = false ∧ u.done = true) ∨
    (u.phase = .idle ∧ u.cpc = s.cpc ∧ u.err = true ∧ u.errCode ≠ .noError ∧ u.done = false) ∨
    ((s.fetch = .ok .capture ∨ s.fetch = .ok .iterate) ∧ (∃ req, u.phase = .waitCapture req) ∧ u.cpc = s.cpc ∧
      u.err = false ∧ u.done = false)

/-! ### The sequencer -/

/-- R153: only the capture agent's answer or reset ends the wait; no other turn of any agent, and no engine step, does. -/
def Obligations.WaitEndsOnlyByAnswerOrReset : Prop :=
  ∀ (s u : State) (req : CaptureRequest), s.phase = .waitCapture req → step s = .next u → u.phase ≠ s.phase →
    ∃ rest, (∃ a, s.turns = .captureAnswer a :: rest) ∨ s.turns = .reset :: rest

/-- R153, V-CAP-4: with no turn to come, a waiting engine is still in the same state after any number of steps, and BUSY
reads 1. That a step then answers the same state, and no stop, is the model's choice (entry 7). -/
def Obligations.SilentCaptureAgentHangsTheRun : Prop :=
  ∀ (k : Nat) (s : State) (req : CaptureRequest), s.phase = .waitCapture req → s.turns = [] →
    Host.Core.run Sys2Proof.core k s = .next s ∧ (s.readReg 0x04 .word).getLsbD 0 = true

/-- R132, R297: a run ends only at HALT with DONE = 1, at an error with ERR = 1 and a code, or by reset. R282: phase IDLE is
left only by a host word write of CTRL with bit 0 = 1. R131: an engine turn in IDLE does nothing; that it is a step which
changes nothing but the turn is the model's choice (entry 7). -/
def Obligations.RunEndsOnlyByHaltErrorOrReset : Prop :=
  (∀ s u : State, s.StatusInv → s.busy = true → step s = .next u → u.busy = false →
    (u.done = true ∧ u.err = false ∧ s.phase = .run ∧ s.engineMoves ∧ s.fetch = .ok .halt) ∨
    (u.err = true ∧ u.errCode ≠ .noError ∧ u.done = false) ∨
    ∃ rest, s.turns = .reset :: rest) ∧
  (∀ s u : State, s.phase = .idle → step s = .next u → u.phase ≠ .idle →
    ∃ v rest, s.turns = .hostWrite 0x00 .word v :: rest ∧ v.getLsbD 0 = true) ∧
  ∀ s : State, s.phase = .idle → s.engineMoves → step s = .next { s with turns := s.turns.tail }

/-- R133: HALT's word and effect, with everything else unchanged; the next START runs from the word after it. -/
def Obligations.HaltStopsTheSequencer : Prop :=
  encodeWord .halt = 0x00000001 ∧
  ∀ s : State, ∃ u, exec .halt s = .next u ∧ u = { s with cpc := s.cpc + 4, phase := .idle, done := true } ∧
    u.busy = false ∧ (s.cpc = 0xFFFFFFFC → u.cpc = 0) ∧
    u.writeReg 0x00 .word 1 =
      { s with cpc := s.cpc + 4, phase := .run, done := false, err := false, errCode := .noError }

/-- R134: NOP's word and effect, with everything else unchanged. -/
def Obligations.NopOnlyAdvances : Prop :=
  encodeWord .nop = 0x00000002 ∧ (∀ i, decodeWord 0x00000102 ≠ .ok i) ∧
  ∀ s : State, exec .nop s = .next { s with cpc := s.cpc + 4 }

/-! ### SETUP -/

/-- R135: SETUP's checks in their order, each with its error and nothing else written; when none fails SETUP completes,
and the model's `setupError` is `none` exactly so. Two ranges overlap when they share an address (R12). -/
def Obligations.SetupChecksInOrder : Prop :=
  ∀ (t r : Bool) (s : State), (t || r) = true →
    let W := s.regs.width.toNat
    let H := s.regs.height.toNat
    let L := W * H * 4
    let FB : List Word := [s.regs.scratchBase] ++ (if t then [s.regs.slot0Base, s.regs.slot1Base] else []) ++
      (if r then [s.regs.reconBase] else [])
    let RG : List Range := FB.map (fun b => ⟨b.toNat, L⟩) ++
      (if t then [⟨s.regs.txcfBase.toNat, s.regs.txcfCap.toNat⟩] else [])
    let geometry := W = 0 ∨ H = 0 ∨ W % 2 ≠ 0
    let capacity := t = true ∧ s.regs.txcfCap.toNat < 4 + s.codec.bound L
    let placement := (∃ b ∈ FB, b.toNat % 8 ≠ 0) ∨ (∃ q ∈ RG, ¬q.base + q.len ≤ s.memSize) ∨
      ¬RG.Pairwise (fun q p => ¬∃ a, q.has a = true ∧ p.has a = true)
    (geometry ∨ capacity →
      exec (.setup t r) s = .next { s with phase := .idle, err := true, errCode := .bufferSizeMismatch }) ∧
    (¬(geometry ∨ capacity) → placement →
      exec (.setup t r) s = .next { s with phase := .idle, err := true, errCode := .bufferRange }) ∧
    (¬(geometry ∨ capacity) → ¬placement →
      s.setupError t r = none ∧ ∃ u, exec (.setup t r) s = .next u ∧ u.cpc = s.cpc + 4 ∧ u.phase = s.phase ∧ u.err = s.err)

/-- R136: SETUP's words, what a SETUP whose checks pass writes, and that it writes nothing else. -/
def Obligations.SetupConstructsTheSession : Prop :=
  (encodeWord (.setup true false) = 0x00000103 ∧ encodeWord (.setup false true) = 0x00000203 ∧
    encodeWord (.setup true true) = 0x00000303) ∧
  ∀ (t r : Bool) (s : State), (t || r) = true → s.memSize ≤ 2 ^ 32 → s.setupError t r = none →
    let L := s.regs.width.toNat * s.regs.height.toNat * 4
    L ≤ 2 ^ 31 ∧
    ∃ u, exec (.setup t r) s = .next u ∧
      u = { s with
        cpc := s.cpc + 4
        session := {
          frameLen := BitVec.ofNat 32 L
          slot0 := if t then s.regs.slot0Base else s.session.slot0
          slot1 := if t then s.regs.slot1Base else s.session.slot1
          scratch := s.regs.scratchBase
          recon := if r then s.regs.reconBase else s.session.recon
          txcfBase := if t then s.regs.txcfBase else s.session.txcfBase
          txcfCap := if t then s.regs.txcfCap else s.session.txcfCap }
        txv := t
        rxv := r
        prevSel := if t then false else s.prevSel
        txcfSize := if t then 4 else s.txcfSize
        mem := u.mem } ∧
      u.readBytes s.regs.scratchBase.toNat L = List.replicate L 0 ∧
      (t = true → u.readBytes s.regs.slot0Base.toNat L = List.replicate L 0 ∧
        u.readBytes s.regs.slot1Base.toNat L = List.replicate L 0 ∧
        u.memRead s.regs.txcfBase.toNat 4 = L) ∧
      (r = true → u.readBytes s.regs.reconBase.toNat L = List.replicate L 0) ∧
      ∀ x,
        (x < s.regs.scratchBase.toNat ∨ s.regs.scratchBase.toNat + L ≤ x) →
        (t = true → (x < s.regs.slot0Base.toNat ∨ s.regs.slot0Base.toNat + L ≤ x) ∧
          (x < s.regs.slot1Base.toNat ∨ s.regs.slot1Base.toNat + L ≤ x) ∧
          (x < s.regs.txcfBase.toNat ∨ s.regs.txcfBase.toNat + 4 ≤ x)) →
        (r = true → x < s.regs.reconBase.toNat ∨ s.regs.reconBase.toNat + L ≤ x) →
          u.byteAt x = s.byteAt x

/-- R139: a SETUP that raises an error changes the phase, ERR and ERRCODE and nothing else. -/
def Obligations.FailedSetupChangesNothing : Prop :=
  ∀ (t r : Bool) (s u : State), exec (.setup t r) s = .next u → s.err = false → u.err = true →
    u = { s with phase := .idle, err := true, errCode := u.errCode } ∧
      (u.errCode = .illegalCmd ∨ u.errCode = .bufferSizeMismatch ∨ u.errCode = .bufferRange)

/-- R102 case 4: the words of SETUP with neither side do not decode. That such a SETUP, taken as an instruction, raises
ILLEGAL_CMD with nothing else written is the model's choice (entry 14). -/
def Obligations.SetupWithNeitherSideIsIllegal : Prop :=
  (∀ i, decodeWord (encodeWord (.setup false false)) ≠ .ok i) ∧
  ∀ s : State, exec (.setup false false) s = .next { s with phase := .idle, err := true, errCode := .illegalCmd }

/-- R137: which commands need which side, and NO_SESSION, with nothing else written, when it is not set up; nothing else
raises NO_SESSION: a step that ends with a new NO_SESSION is the engine's step of such a command. -/
def Obligations.SideValidityComesFirst : Prop :=
  ∀ s : State,
    (∀ u, step s = .next u → u.errCode = .noSession → s.errCode ≠ .noSession →
      s.phase = .run ∧ s.engineMoves ∧ ∃ i, s.fetch = .ok i ∧
        ((i ∈ [Instr.capture, .diff, .compress, .swap, .iterate] ∧ s.txv = false) ∨
          (i ∈ [Instr.decompress, .merge, .receive] ∧ s.rxv = false))) ∧
    (∀ i ∈ [Instr.capture, .diff, .compress, .swap, .iterate],
      (s.txv = false → exec i s = .next { s with phase := .idle, err := true, errCode := .noSession }) ∧
      (s.txv = true → ∀ u, exec i s = .next u → u.errCode = .noSession → s.errCode = .noSession)) ∧
    (∀ i ∈ [Instr.decompress, .merge, .receive],
      (s.rxv = false → exec i s = .next { s with phase := .idle, err := true, errCode := .noSession }) ∧
      (s.rxv = true → ∀ u, exec i s = .next u → u.errCode = .noSession → s.errCode = .noSession)) ∧
    (∀ i t r, i ∈ [Instr.halt, .nop, .setup t r] →
      ∀ u, exec i s = .next u → u.errCode = .noSession → s.errCode = .noSession)

/-- R50, R294: a step changes the session, TXV or RXV only when the engine runs a SETUP, or at reset. -/
def Obligations.SessionChangesOnlyBySetup : Prop :=
  ∀ s u : State, step s = .next u →
    (u.session = s.session ∧ u.txv = s.txv ∧ u.rxv = s.rxv) ∨
    (s.phase = .run ∧ s.engineMoves ∧ ∃ t r, s.fetch = .ok (.setup t r)) ∨
    ∃ rest, s.turns = .reset :: rest

/-- R51: the slots that PREV_SEL selects, its reset value, and its only writers: SETUP with T = 1 sets it to 0, SWAP and
ITERATE invert it (ITERATE at its end, when the answer comes); reset gives the reset value. -/
def Obligations.PrevSelSelectsAndItsWriters : Prop :=
  (∀ s : State, (s.prevSel = false → s.prevSlot = s.session.slot0 ∧ s.curSlot = s.session.slot1) ∧
    (s.prevSel = true → s.prevSlot = s.session.slot1 ∧ s.curSlot = s.session.slot0)) ∧
  State.reset.prevSel = false ∧
  ∀ s u : State, step s = .next u → u.prevSel ≠ s.prevSel →
    (s.phase = .run ∧ s.engineMoves ∧ (∃ r, s.fetch = .ok (.setup true r)) ∧ u.prevSel = false) ∨
    (s.phase = .run ∧ s.engineMoves ∧ s.fetch = .ok .swap ∧ u.prevSel = !s.prevSel) ∨
    (∃ req a rest, s.phase = .waitCapture req ∧ req.command = .iterate ∧ s.turns = .captureAnswer a :: rest ∧
      u.prevSel = !s.prevSel) ∨
    ((∃ rest, s.turns = .reset :: rest) ∧ u.prevSel = false)

/-- R46, R184: TXCF_SIZE changes only at COMPRESS, at the end of an ITERATE, at SETUP with T = 1 and at reset, and the
last two set it to 4. -/
def Obligations.TxcfSizeWriters : Prop :=
  ∀ s u : State, step s = .next u → u.txcfSize ≠ s.txcfSize →
    (s.phase = .run ∧ s.engineMoves ∧ s.fetch = .ok .compress) ∨
    (∃ req a rest, s.phase = .waitCapture req ∧ req.command = .iterate ∧ s.turns = .captureAnswer a :: rest) ∨
    (s.phase = .run ∧ s.engineMoves ∧ (∃ r, s.fetch = .ok (.setup true r)) ∧ u.txcfSize = 4) ∨
    ((∃ rest, s.turns = .reset :: rest) ∧ u.txcfSize = 4)

/-! ### CAPTURE -/

/-- R150, R151, R152: CAPTURE issues one request for the current slot and waits, changing nothing else; the answer `ok`
with the requested number of bytes writes them there, and only there, and ends the command. -/
def Obligations.CaptureFillsCurrent : Prop :=
  ∀ (s : State) (bytes : List Byte) (rest : List Turn), s.txv = true → bytes.length = s.frameBytes →
    s.curSlot.toNat + s.frameBytes ≤ s.memSize → s.phase = .run →
    ∃ w, exec .capture s = .next w ∧
      w = { s with phase := .waitCapture ⟨s.curSlot, s.session.frameLen, .capture⟩ } ∧
      ∃ u, step { w with turns := .captureAnswer (.ok bytes) :: rest } = .next u ∧
        u = { s with turns := rest, cpc := s.cpc + 4, mem := u.mem } ∧
        u.readBytes s.curSlot.toNat s.frameBytes = bytes ∧
        ∀ x, (x < s.curSlot.toNat ∨ s.curSlot.toNat + s.frameBytes ≤ x) → u.byteAt x = s.byteAt x

/-- R151, R154: after `fail` CAPTURE_FAILURE stops the run with CPC at the command that asked, CAPTURE or ITERATE, and
`previous`, PREV_SEL, the TXCF buffer, TXCF_SIZE, scratch and every byte outside `current` are unchanged. -/
def Obligations.CaptureFailureLeavesFrameState : Prop :=
  ∀ (s : State) (req : CaptureRequest) (rest : List Turn), s.Inv → s.phase = .waitCapture req →
    s.turns = .captureAnswer .fail :: rest →
    ∃ u, step s = .next u ∧
      u = { s with
        turns := rest, phase := .idle, err := true, errCode := .captureFailure, mem := u.mem, draws := u.draws } ∧
      u.frameAt u.prevSlot = s.frameAt s.prevSlot ∧
      u.frameAt u.session.scratch = s.frameAt s.session.scratch ∧
      u.readBytes s.session.txcfBase.toNat s.session.txcfCap.toNat =
        s.readBytes s.session.txcfBase.toNat s.session.txcfCap.toNat ∧
      ∀ x, (x < s.curSlot.toNat ∨ s.curSlot.toNat + s.frameBytes ≤ x) → u.byteAt x = s.byteAt x

/-! ### The delta kernel -/

/-- R161: DIFF completes, scratch takes the XOR of `current` and `previous` byte by byte, and nothing else changes. -/
def Obligations.DiffWritesTheDelta : Prop :=
  ∀ s : State, s.txv = true → s.curSlot.toNat + s.frameBytes ≤ s.memSize →
    s.prevSlot.toNat + s.frameBytes ≤ s.memSize → s.session.scratch.toNat + s.frameBytes ≤ s.memSize →
    ∃ u, exec .diff s = .next u ∧ u = { s with cpc := s.cpc + 4, mem := u.mem } ∧
      (∀ i, i < s.frameBytes → u.byteAt (s.session.scratch.toNat + i) =
        s.byteAt (s.curSlot.toNat + i) ^^^ s.byteAt (s.prevSlot.toNat + i)) ∧
      ∀ x, (x < s.session.scratch.toNat ∨ s.session.scratch.toNat + s.frameBytes ≤ x) → u.byteAt x = s.byteAt x

/-- R164: MERGE completes, recon takes the XOR of recon and scratch byte by byte, and nothing else changes. -/
def Obligations.MergeUpdatesRecon : Prop :=
  ∀ s : State, s.rxv = true → s.session.recon.toNat + s.frameBytes ≤ s.memSize →
    s.session.scratch.toNat + s.frameBytes ≤ s.memSize →
    ∃ u, exec .merge s = .next u ∧ u = { s with cpc := s.cpc + 4, mem := u.mem } ∧
      (∀ i, i < s.frameBytes → u.byteAt (s.session.recon.toNat + i) =
        s.byteAt (s.session.recon.toNat + i) ^^^ s.byteAt (s.session.scratch.toNat + i)) ∧
      ∀ x, (x < s.session.recon.toNat ∨ s.session.recon.toNat + s.frameBytes ≤ x) → u.byteAt x = s.byteAt x

/-- R160, R161, R164: the loop over 8-byte words of DIFF, and that of MERGE, visited in any order, leave the same memory
as the model's DIFF and MERGE. -/
def Obligations.WordOrderCannotBeObserved : Prop :=
  ∀ (s : State) (order : List Nat), s.Inv → order.Perm (List.range (s.frameBytes / 8)) →
    (s.txv = true → exec .diff s = .next (order.foldl State.diffWord s).advance) ∧
    (s.rxv = true → exec .merge s = .next (order.foldl State.mergeWord s).advance)

/-- R162: if the two slots hold equal bytes, DIFF writes L zero bytes to scratch. -/
def Obligations.EqualSlotsGiveZeroDelta : Prop :=
  ∀ s : State, s.Inv → s.txv = true → s.frameAt s.session.slot0 = s.frameAt s.session.slot1 →
    ∃ u, exec .diff s = .next u ∧ u.frameAt u.session.scratch = List.replicate s.frameBytes 0

/-- R165: the word-wise XOR is its own inverse, and MERGE after DIFF turns a recon that holds `previous` into
`current`. -/
def Obligations.DiffThenMergeGivesCurrent : Prop :=
  (∀ a b : List Byte, a.length = b.length → xorw (xorw a b) b = a) ∧
  ∀ s : State, s.Inv → s.txv = true → s.rxv = true → s.frameAt s.session.recon = s.frameAt s.prevSlot →
    ∃ u v, exec .diff s = .next u ∧ exec .merge u = .next v ∧ v.frameAt v.session.recon = s.frameAt s.curSlot

/-- R168: merging two deltas in either order gives the same recon, and the recons in between differ when the deltas do. -/
def Obligations.MergesCommute : Prop :=
  ∀ r d1 d2 : List Byte, d1.length = r.length → d2.length = r.length →
    (∀ s : State, s.Inv → s.rxv = true → s.frameAt s.session.recon = r →
      ((s.mergeInto d1).mergeInto d2).frameAt s.session.recon = xorw (xorw r d1) d2 ∧
      ((s.mergeInto d2).mergeInto d1).frameAt s.session.recon = xorw (xorw r d1) d2 ∧
      (d1 ≠ d2 → (s.mergeInto d1).frameAt s.session.recon ≠ (s.mergeInto d2).frameAt s.session.recon))

/-! ### The codec kernel -/

/-- R183, R184, R185: COMPRESS whose payload fits completes: the header is LE32(S.L), the codec body of scratch follows,
TXCF_SIZE counts both, and nothing else changes, the bytes of TXCF beyond the new size among it. -/
def Obligations.CompressWritesThePayload : Prop :=
  ∀ s : State, s.txv = true → s.session.scratch.toNat + s.frameBytes ≤ s.memSize →
    let body := s.codec.enc (s.frameAt s.session.scratch)
    4 + body.length ≤ s.session.txcfCap.toNat → s.session.txcfBase.toNat + s.session.txcfCap.toNat ≤ s.memSize →
    ∃ u, exec .compress s = .next u ∧
      u = { s with cpc := s.cpc + 4, txcfSize := BitVec.ofNat 32 (4 + body.length), mem := u.mem } ∧
      u.txcfSize.toNat = 4 + body.length ∧
      u.memRead s.session.txcfBase.toNat 4 = s.frameBytes ∧
      u.readBytes (s.session.txcfBase.toNat + 4) body.length = body ∧
      ∀ x, (x < s.session.txcfBase.toNat ∨ s.session.txcfBase.toNat + (4 + body.length) ≤ x) →
        u.byteAt x = s.byteAt x

/-- R191: a payload that does not fit is CF_OVERFLOW with nothing written to TXCF; with a codec that meets R182 it always
fits in a session that SETUP has checked, so COMPRESS completes there and its TXCF_SIZE is at least 5 and at most
`4 + Codec.bound(L)` (R193). -/
def Obligations.OverflowOnlyForAnUnlawfulCodec : Prop :=
  (∀ s : State, s.txv = true → s.session.scratch.toNat + s.frameBytes ≤ s.memSize →
    s.session.txcfCap.toNat < 4 + (s.codec.enc (s.frameAt s.session.scratch)).length →
      exec .compress s = .next { s with phase := .idle, err := true, errCode := .cfOverflow }) ∧
  ∀ s : State, s.Inv → s.codec.Lawful → s.txv = true →
    ∃ u, exec .compress s = .next u ∧ u.err = s.err ∧ u.cpc = s.cpc + 4 ∧ 5 ≤ u.txcfSize.toNat ∧
      u.txcfSize.toNat ≤ 4 + s.codec.bound s.frameBytes

/-- R187: the receiver's payload checks, in their order, for DECOMPRESS and RECEIVE, each with its error and nothing else
written; when none fails the model's `payloadError`, of which the statements on DECOMPRESS and RECEIVE speak, is `none`. -/
def Obligations.PayloadChecksInOrder : Prop :=
  ∀ (s : State) (i : Instr), i = .decompress ∨ i = .receive →
    let a := s.regs.rxcfBase.toNat
    let n := s.regs.rxcfSize.toNat
    let L := s.frameBytes
    let stops := fun (c : ErrorCode) => exec i s = .next { s with phase := .idle, err := true, errCode := c }
    let shares := fun (b : Nat) => ∃ x, (a ≤ x ∧ x < a + n) ∧ (b ≤ x ∧ x < b + L)
    (s.rxv = false → stops .noSession) ∧
    (s.rxv = true → a + n > s.memSize → stops .bufferRange) ∧
    (s.rxv = true → a + n ≤ s.memSize → shares s.session.scratch.toNat ∨ shares s.session.recon.toNat →
      stops .bufferRange) ∧
    (s.rxv = true → a + n ≤ s.memSize → ¬(shares s.session.scratch.toNat ∨ shares s.session.recon.toNat) →
      (n < 4 → stops .decompressionFailure) ∧ (n = 4 → stops .noPayload) ∧
      (4 < n → s.memRead a 4 ≠ L → stops .decompressionFailure) ∧
      (4 < n → s.memRead a 4 = L → s.payloadError = none))

/-- R188: DECOMPRESS whose checks pass and whose body decodes to S.L bytes completes, scratch takes the decoded bytes,
and nothing else changes, recon among it. -/
def Obligations.DecompressFillsScratch : Prop :=
  ∀ (s : State) (r : List Byte), s.payloadError = none →
    s.session.scratch.toNat + s.frameBytes ≤ s.memSize →
    s.codec.dec (s.readBytes (s.regs.rxcfBase.toNat + 4) (s.regs.rxcfSize.toNat - 4)) = some r →
    r.length = s.frameBytes →
    ∃ u, exec .decompress s = .next u ∧ u = { s with cpc := s.cpc + 4, mem := u.mem } ∧
      u.readBytes s.session.scratch.toNat s.frameBytes = r ∧
      ∀ x, (x < s.session.scratch.toNat ∨ s.session.scratch.toNat + s.frameBytes ≤ x) → u.byteAt x = s.byteAt x

/-- R188, R189: a body that does not decode to S.L bytes stops DECOMPRESS and RECEIVE with DECOMPRESSION_FAILURE; scratch
holds any value, in the model the next free bytes (entry 4), and no other byte changes, recon not. -/
def Obligations.CodecStageFailureTouchesOnlyScratch : Prop :=
  ∀ (s : State) (i : Instr), i = .decompress ∨ i = .receive → s.Inv → s.payloadError = none →
    (∀ r, s.codec.dec (s.readBytes (s.regs.rxcfBase.toNat + 4) (s.regs.rxcfSize.toNat - 4)) = some r →
      r.length ≠ s.frameBytes) →
    ∃ u, exec i s = .next u ∧
      u = { s with
        phase := .idle, err := true, errCode := .decompressionFailure, mem := u.mem, draws := u.draws } ∧
      u.frameAt s.session.recon = s.frameAt s.session.recon ∧
      (∀ k, k < s.frameBytes → u.byteAt (s.session.scratch.toNat + k) = Config.freeByte (s.draws + k)) ∧
      ∀ x, (x < s.session.scratch.toNat ∨ s.session.scratch.toNat + s.frameBytes ≤ x) → u.byteAt x = s.byteAt x

/-- E1, R181, R183, R185, R188: in a session with both sides and a lawful codec, COMPRESS, then the host pointing RXCF at
TXCF and scratch overwritten with any frame, then DECOMPRESS, leaves scratch as COMPRESS read it, byte for byte. -/
def Obligations.CompressThenDecompressRoundTrips : Prop :=
  ∀ (s : State) (frame : List Byte), s.Inv → s.codec.Lawful → s.txv = true → s.rxv = true →
    frame.length = s.frameBytes →
    ∃ u v, exec .compress s = .next u ∧
      exec .decompress { u.writeBytes u.session.scratch.toNat frame with
        regs := { u.regs with rxcfBase := u.session.txcfBase, rxcfSize := u.txcfSize } } = .next v ∧
      v.err = s.err ∧ v.frameAt v.session.scratch = s.frameAt s.session.scratch

/-! ### The sender -/

/-- R200: SWAP inverts PREV_SEL, so the roles of the slots change places, no byte of memory and nothing else changes, and
two SWAPs cancel out. -/
def Obligations.SwapExchangesRoles : Prop :=
  encodeWord .swap = 0x00000013 ∧
  ∀ s : State, (s.txv = false → exec .swap s = .next { s with phase := .idle, err := true, errCode := .noSession }) ∧
    (s.txv = true → ∃ u v, exec .swap s = .next u ∧ u = { s with cpc := s.cpc + 4, prevSel := !s.prevSel } ∧
      u.prevSlot = s.curSlot ∧ u.curSlot = s.prevSlot ∧ exec .swap u = .next v ∧ v.prevSel = s.prevSel)

/-- R201: ITERATE issues its request and waits; after `ok` with the captured frame it completes, with a lawful codec
always and with any codec when the payload fits: `current` holds the capture, scratch the delta, TXCF the payload, PREV_SEL
is inverted, and nothing else changes. -/
def Obligations.IterateCapturesDiffsCompressesSwaps : Prop :=
  ∀ (s : State) (bytes : List Byte) (rest : List Turn), s.Inv → s.phase = .run → s.txv = true →
    bytes.length = s.frameBytes →
    let delta := xorw bytes (s.frameAt s.prevSlot)
    let body := s.codec.enc delta
    s.codec.Lawful ∨ 4 + body.length ≤ s.session.txcfCap.toNat →
    exec .iterate s = .next { s with phase := .waitCapture ⟨s.curSlot, s.session.frameLen, .iterate⟩ } ∧
    ∃ u, step { s with
        phase := .waitCapture ⟨s.curSlot, s.session.frameLen, .iterate⟩
        turns := .captureAnswer (.ok bytes) :: rest } = .next u ∧
      u = { s with
        turns := rest, cpc := s.cpc + 4, prevSel := !s.prevSel, txcfSize := BitVec.ofNat 32 (4 + body.length)
        mem := u.mem } ∧
      u.txcfSize.toNat = 4 + body.length ∧
      u.frameAt s.curSlot = bytes ∧ u.frameAt s.prevSlot = s.frameAt s.prevSlot ∧
      u.frameAt s.session.scratch = delta ∧
      u.memRead s.session.txcfBase.toNat 4 = s.frameBytes ∧
      u.readBytes (s.session.txcfBase.toNat + 4) body.length = body ∧
      ∀ x, (x < s.curSlot.toNat ∨ s.curSlot.toNat + s.frameBytes ≤ x) →
        (x < s.session.scratch.toNat ∨ s.session.scratch.toNat + s.frameBytes ≤ x) →
        (x < s.session.txcfBase.toNat ∨ s.session.txcfBase.toNat + (4 + body.length) ≤ x) →
          u.byteAt x = s.byteAt x

/-- R201, R242: an ITERATE whose payload does not fit stops with CF_OVERFLOW: `current` holds the capture and scratch the
delta; PREV_SEL, TXCF_SIZE, TXCF and all else are unchanged, and CPC keeps the ITERATE. -/
def Obligations.IterateOverflowKeepsThePayload : Prop :=
  ∀ (s : State) (bytes : List Byte) (rest : List Turn), s.Inv → s.txv = true → bytes.length = s.frameBytes →
    let delta := xorw bytes (s.frameAt s.prevSlot)
    s.session.txcfCap.toNat < 4 + (s.codec.enc delta).length →
    ∃ u, step { s with
        phase := .waitCapture ⟨s.curSlot, s.session.frameLen, .iterate⟩
        turns := .captureAnswer (.ok bytes) :: rest } = .next u ∧
      u = { s with
        turns := rest, phase := .idle, err := true, errCode := .cfOverflow, mem := u.mem } ∧
      u.frameAt s.curSlot = bytes ∧ u.frameAt s.session.scratch = delta ∧
      ∀ x, (x < s.curSlot.toNat ∨ s.curSlot.toNat + s.frameBytes ≤ x) →
        (x < s.session.scratch.toNat ∨ s.session.scratch.toNat + s.frameBytes ≤ x) → u.byteAt x = s.byteAt x

/-- R203: the list CAPTURE, DIFF, COMPRESS, SWAP and one ITERATE end in the same state for every capture answer, but for
CPC: 12 bytes further on after success; at the CAPTURE, as at the ITERATE, after a capture failure; at the COMPRESS after
CF_OVERFLOW. A sender side that is not set up stops both alike. -/
def Obligations.IterateEqualsTxcycle : Prop :=
  ∀ (s : State) (answer : CaptureAnswer), s.Inv → s.phase = .run →
    (∀ bytes, answer = .ok bytes → bytes.length = s.frameBytes) →
    ∃ u v, execList answer Pseudo.txcycle.expansion s = .next u ∧ execAnswered .iterate answer s = .next v ∧
      u = { v with cpc := u.cpc } ∧
      ((v.phase = .run ∧ v.cpc = s.cpc + 4 ∧ u.cpc = v.cpc + 12) ∨
       (v.phase = .idle ∧ v.errCode = .captureFailure ∧ v.cpc = s.cpc ∧ u.cpc = s.cpc) ∨
       (v.phase = .idle ∧ v.errCode = .cfOverflow ∧ v.cpc = s.cpc ∧ u.cpc = s.cpc + 8) ∨
       (s.txv = false ∧ v.phase = .idle ∧ v.errCode = .noSession ∧ v.cpc = s.cpc ∧ u.cpc = s.cpc))

/-- R204: after N ≥ 1 ITERATEs that succeed in a session that SETUP has just made, with captures F1 to FN, `previous`
holds FN, `current` holds F(N-1), or the all-zero frame if N = 1, and PREV_SEL = N mod 2; with a lawful codec they do
succeed. A failed ITERATE, by its capture or by its payload, leaves `previous` and PREV_SEL as they were. -/
def Obligations.SlotsHoldTheLastTwoCaptures : Prop :=
  (∀ (s : State) (frames : List (List Byte)), s.Inv → s.phase = .run → s.txv = true →
    s.prevSel = false → s.frameAt s.session.slot0 = List.replicate s.frameBytes 0 → frames ≠ [] →
    (∀ f ∈ frames, f.length = s.frameBytes) →
    ∃ u, iterateAll frames s = .next u ∧ (s.codec.Lawful → u.phase = .run) ∧
      (u.phase = .run →
        u.prevSel = decide (frames.length % 2 = 1) ∧ some (u.frameAt u.prevSlot) = frames.getLast? ∧
        some (u.frameAt u.curSlot) = (List.replicate s.frameBytes 0 :: frames.dropLast).getLast?)) ∧
  ∀ (s : State) (answer : CaptureAnswer), s.Inv → s.phase = .run → s.txv = true →
    (∀ bytes, answer = .ok bytes → bytes.length = s.frameBytes) →
    ∃ u, execAnswered .iterate answer s = .next u ∧
      (u.phase ≠ .run → u.prevSel = s.prevSel ∧ u.frameAt u.prevSlot = s.frameAt s.prevSlot)

/-! ### The receiver -/

/-- R220: RECEIVE whose checks pass and whose body decodes to S.L bytes completes: scratch takes the decoded delta, recon
its XOR with the old recon, and nothing else changes. -/
def Obligations.ReceiveAppliesThePayload : Prop :=
  ∀ (s : State) (r : List Byte), s.Inv → s.payloadError = none →
    s.codec.dec (s.readBytes (s.regs.rxcfBase.toNat + 4) (s.regs.rxcfSize.toNat - 4)) = some r →
    r.length = s.frameBytes →
    ∃ u, exec .receive s = .next u ∧ u = { s with cpc := s.cpc + 4, mem := u.mem } ∧
      u.frameAt s.session.scratch = r ∧ u.frameAt s.session.recon = xorw (s.frameAt s.session.recon) r ∧
      ∀ x, (x < s.session.scratch.toNat ∨ s.session.scratch.toNat + s.frameBytes ≤ x) →
        (x < s.session.recon.toNat ∨ s.session.recon.toNat + s.frameBytes ≤ x) → u.byteAt x = s.byteAt x

/-- R220, R242: whatever RXCF holds, RECEIVE and DECOMPRESS answer a next state, and one with an error has changed no byte
of recon. -/
def Obligations.ReceiverErrorsLeaveRecon : Prop :=
  ∀ (s : State) (i : Instr), i = .decompress ∨ i = .receive → s.Inv → s.err = false →
    ∃ u, exec i s = .next u ∧
      (u.err = true → u.frameAt s.session.recon = s.frameAt s.session.recon)

/-- R222: the list DECOMPRESS, MERGE and one RECEIVE end in the same state for every RXCF content, but for CPC, 4 bytes
further on after success; after an error neither form has written recon. -/
def Obligations.ReceiveEqualsRxcycle : Prop :=
  ∀ (s : State) (answer : CaptureAnswer), s.Inv → s.phase = .run →
    ∃ u v, execList answer Pseudo.rxcycle.expansion s = .next u ∧ execAnswered .receive answer s = .next v ∧
      u = { v with cpc := u.cpc } ∧
      ((v.phase = .run ∧ v.cpc = s.cpc + 4 ∧ u.cpc = v.cpc + 4) ∨
       (v.phase = .idle ∧ v.err = true ∧ v.cpc = s.cpc ∧ u.cpc = s.cpc ∧
        v.frameAt s.session.recon = s.frameAt s.session.recon ∧
        u.frameAt s.session.recon = s.frameAt s.session.recon))

/-- R223: a sender session and a receiver session, of two machines or of one, with the same frame length and a codec that
meets R181 and R193, and a recon equal to the sender's `previous`: when ITERATE with capture F succeeds and its payload is
given unchanged, RECEIVE succeeds, and recon ends equal to F. -/
def Obligations.EndToEndDelivery : Prop :=
  ∀ (tx rx sent : State) (frame : List Byte), tx.Inv → rx.Inv →
    (∀ x, tx.codec.dec (tx.codec.enc x) = some x) → (∀ x, 1 ≤ x.length → 1 ≤ (tx.codec.enc x).length) →
    rx.codec = tx.codec → tx.phase = .run → tx.txv = true → rx.rxv = true → rx.frameBytes = tx.frameBytes →
    frame.length = tx.frameBytes → execAnswered .iterate (.ok frame) tx = .next sent → sent.phase = .run →
    rx.frameAt rx.session.recon = tx.frameAt tx.prevSlot →
    rx.regs.rxcfSize = sent.txcfSize →
    rx.regs.rxcfBase.toNat + rx.regs.rxcfSize.toNat ≤ rx.memSize →
    rx.rxcfRange.overlaps rx.scratchRange = false → rx.rxcfRange.overlaps rx.reconRange = false →
    rx.readBytes rx.regs.rxcfBase.toNat rx.regs.rxcfSize.toNat =
      sent.readBytes sent.session.txcfBase.toNat sent.txcfSize.toNat →
    ∃ u, exec .receive rx = .next u ∧ u.err = rx.err ∧ u.cpc = rx.cpc + 4 ∧ u.frameAt u.session.recon = frame

/-- R224: the delta of two equal captures is all zero, and RECEIVE of a payload made from it leaves recon unchanged. -/
def Obligations.EqualCapturesLeaveReconUnchanged : Prop :=
  (∀ frame : List Byte, xorw frame frame = List.replicate frame.length 0) ∧
  ∀ (rx : State) (frame : List Byte), rx.Inv → (∀ x, rx.codec.dec (rx.codec.enc x) = some x) →
    rx.payloadError = none → frame.length = rx.frameBytes →
    rx.readBytes (rx.regs.rxcfBase.toNat + 4) (rx.regs.rxcfSize.toNat - 4) = rx.codec.enc (xorw frame frame) →
    ∃ u, exec .receive rx = .next u ∧ u.err = rx.err ∧ u.frameAt u.session.recon = rx.frameAt rx.session.recon

/-! ### Errors -/

/-- R241: a step that raises an error ends idle with ERR and a code, CPC still at the command, and, memory bytes and the
model's own draws and turns apart, nothing else changed. -/
def Obligations.ErrorStopKeepsCpc : Prop :=
  ∀ s u : State, step s = .next u → s.err = false → u.err = true →
    u.errCode ≠ .noError ∧ (s.StatusInv → u.done = false) ∧
    u = { s with
      phase := .idle, err := true, errCode := u.errCode, mem := u.mem, draws := u.draws, turns := s.turns.tail }

/-- R242: which bytes an error lets change: none for the checks; the `current` slot for CAPTURE_FAILURE; scratch for
DECOMPRESSION_FAILURE at the codec stage, where no check of R187 fails; none for CF_OVERFLOW of COMPRESS, `current` and scratch for CF_OVERFLOW of ITERATE. -/
def Obligations.ErrorsArePrecise : Prop :=
  ∀ (s u : State) (x : Nat), s.Inv → step s = .next u → s.err = false → u.err = true →
    u.byteAt x ≠ s.byteAt x →
      (u.errCode = .captureFailure ∧ s.curRange.has x = true) ∨
      (u.errCode = .decompressionFailure ∧ s.payloadError = none ∧ s.scratchRange.has x = true) ∨
      (u.errCode = .cfOverflow ∧ (∃ req, s.phase = .waitCapture req ∧ req.command = .iterate) ∧
        (s.curRange.has x = true ∨ s.scratchRange.has x = true))

/-! ### The host's side -/

/-- R130: a write of CTRL.START = 1 while idle makes BUSY read 1, clears DONE, ERR and ERRCODE, and changes nothing
else; while busy it is ignored. -/
def Obligations.StartBeginsTheRun : Prop :=
  ∀ (s : State) (v : Word) (rest : List Turn), v.getLsbD 0 = true → s.turns = .hostWrite 0x00 .word v :: rest →
    (s.busy = false → ∃ u, step s = .next u ∧
      u = { s with turns := rest, phase := .run, done := false, err := false, errCode := .noError } ∧
      (u.readReg 0x04 .word).getLsbD 0 = true) ∧
    (s.busy = true → step s = .next { s with turns := rest, wign := true })

/-- R33: CTRL's write action and its reads. -/
def Obligations.CtrlIsAWriteAction : Prop :=
  ∀ (s : State) (v : Word), s.readReg 0x00 .word = 0 ∧ State.reset.readReg 0x00 .word = 0 ∧
    (v.getLsbD 0 = true → s.busy = false → s.writeReg 0x00 .word v =
      { s with phase := .run, done := false, err := false, errCode := .noError }) ∧
    (v.getLsbD 0 = true → s.busy = true → s.writeReg 0x00 .word v = { s with wign := true }) ∧
    (v.getLsbD 0 = false → s.writeReg 0x00 .word v = s)

/-- R49: while busy a write to CPC, a configuration register or CTRL.START changes nothing and sets WIGN; STATUS and
IRQ_EN are never ignored; read-only registers and reserved offsets always are, and never set WIGN. -/
def Obligations.BusyWritesAreIgnored : Prop :=
  ∀ (s : State) (offset : BitVec 8) (v : Word),
    (s.busy = true → offset.toNat ∈ [0x0C, 0x10, 0x14, 0x1C, 0x20, 0x24, 0x28, 0x2C, 0x30, 0x38, 0x3C] →
      s.writeReg offset .word v = { s with wign := true }) ∧
    (s.busy = true → v.getLsbD 0 = true → s.writeReg 0x00 .word v = { s with wign := true }) ∧
    (offset.toNat = 0x18 ∨ offset.toNat = 0x34 ∨ 0x40 ≤ offset.toNat → s.writeReg offset .word v = s) ∧
    s.writeReg 0x08 .word v = { s with doneIe := v.getLsbD 1, errIe := v.getLsbD 2 } ∧
    s.writeReg 0x04 .word v = { s with
      done := s.done && !v.getLsbD 1
      err := s.err && !v.getLsbD 2
      errCode := if v.getLsbD 2 then .noError else s.errCode
      wign := s.wign && !v.getLsbD 3 }

/-- R34, R240: the fields of STATUS where the table puts them, the number of every error code, STATUS's reset value, and the
write-1-to-clear bits, in any phase. -/
def Obligations.StatusFieldsAndClearing : Prop :=
  State.reset.readReg 0x04 .word = 0 ∧
  (∀ p ∈ [(ErrorCode.noError, 0x00), (.illegalCmd, 0x01), (.cmdFetchFault, 0x02), (.noSession, 0x03),
      (.bufferSizeMismatch, 0x04), (.bufferRange, 0x05), (.captureFailure, 0x06), (.decompressionFailure, 0x07),
      (.noPayload, 0x08), (.cfOverflow, 0x09)],
    ∀ s : State, s.errCode = p.1 → ((s.readReg 0x04 .word).extractLsb' 8 8).toNat = p.2) ∧
  ∀ (s : State) (v : Word),
    let w := s.readReg 0x04 .word
    let u := s.writeReg 0x04 .word v
    w.getLsbD 0 = s.busy ∧ w.getLsbD 1 = s.done ∧ w.getLsbD 2 = s.err ∧ w.getLsbD 3 = s.wign ∧ w.getLsbD 4 = s.txv ∧
    w.getLsbD 5 = s.rxv ∧ w.getLsbD 6 = s.prevSel ∧ w.getLsbD 7 = false ∧ w.extractLsb' 16 16 = 0 ∧
    u.done = (s.done && !v.getLsbD 1) ∧ u.err = (s.err && !v.getLsbD 2) ∧ u.wign = (s.wign && !v.getLsbD 3) ∧
    u.errCode = (if v.getLsbD 2 then .noError else s.errCode) ∧
    u = { s with done := u.done, err := u.err, wign := u.wign, errCode := u.errCode }

/-- R250: the interrupt output, that HALT and an error stop assert it when their enable is set, and that it stays asserted
until a host write to STATUS, IRQ_EN or CTRL, or reset. -/
def Obligations.IrqFollowsStatusAndEnables : Prop :=
  (∀ s : State, s.irq = ((s.done && s.doneIe) || (s.err && s.errIe))) ∧
  (∀ s u : State, exec .halt s = .next u → s.doneIe = true → u.irq = true) ∧
  (∀ s u : State, step s = .next u → s.err = false → u.err = true → s.errIe = true → u.irq = true) ∧
  ∀ s u : State, step s = .next u → s.irq = true → u.irq = false →
    (∃ offset v rest, s.turns = .hostWrite offset .word v :: rest ∧
      (offset = 0x00 ∧ v.getLsbD 0 = true ∨ offset = 0x04 ∧ (v.getLsbD 1 = true ∨ v.getLsbD 2 = true) ∨
        offset = 0x08 ∧ (v.getLsbD 1 = false ∨ v.getLsbD 2 = false))) ∨
    ∃ rest, s.turns = .reset :: rest

/-- R31, R32, R36 to R48, R50: every register of the block reads the state that the commands use, CPC, the configuration
registers, S.L and TXCF_SIZE at their offsets, and reserved offsets read 0; that TXCF_SIZE does so also while busy, which R82
says the host may not read, is the model's choice (entry 19). An idle host write to a read/write register reads back, less the reserved bits; the other
registers of the block, the session, memory and all else of the machine keep their values. -/
def Obligations.RegisterWritesReadBack : Prop :=
  (∀ s : State,
    s.readReg 0x00 .word = 0 ∧ (s.readReg 0x08 .word).getLsbD 1 = s.doneIe ∧
    (s.readReg 0x08 .word).getLsbD 2 = s.errIe ∧ s.readReg 0x08 .word &&& 0xFFFFFFF9 = 0 ∧
    s.readReg 0x0C .word = s.cpc ∧ s.readReg 0x10 .word = s.regs.width.setWidth 32 ∧
    s.readReg 0x14 .word = s.regs.height.setWidth 32 ∧ s.readReg 0x18 .word = s.session.frameLen ∧
    s.readReg 0x1C .word = s.regs.slot0Base ∧ s.readReg 0x20 .word = s.regs.slot1Base ∧
    s.readReg 0x24 .word = s.regs.scratchBase ∧ s.readReg 0x28 .word = s.regs.reconBase ∧
    s.readReg 0x2C .word = s.regs.txcfBase ∧ s.readReg 0x30 .word = s.regs.txcfCap ∧
    s.readReg 0x34 .word = s.txcfSize ∧ s.readReg 0x38 .word = s.regs.rxcfBase ∧
    s.readReg 0x3C .word = s.regs.rxcfSize ∧
    ∀ offset : BitVec 8, 0x40 ≤ offset.toNat → s.readReg offset .word = 0) ∧
  ∀ (s : State) (offset other : BitVec 8) (v : Word), s.busy = false →
    offset.toNat ∈ [0x08, 0x0C, 0x10, 0x14, 0x1C, 0x20, 0x24, 0x28, 0x2C, 0x30, 0x38, 0x3C] →
    let u := s.writeReg offset .word v
    let mask : Word := if offset = 0x08 then 0x6 else if offset = 0x10 ∨ offset = 0x14 then 0xFFFF else 0xFFFFFFFF
    u.readReg offset .word = v &&& mask ∧
    (other ≠ offset → u.readReg other .word = s.readReg other .word) ∧
    u = { s with cpc := u.cpc, regs := u.regs, doneIe := u.doneIe, errIe := u.errIe }

/-- R53: an access that is narrow or at no multiple of 4 is ignored on a write, WIGN included, and returns 0 on a read;
a read of any kind leaves the machine as it is. -/
def Obligations.NarrowAccessesAreIgnored : Prop :=
  ∀ (s : State) (offset : BitVec 8) (size : AccessSize) (v : Word) (rest : List Turn),
    (size ≠ .word ∨ offset.toNat % 4 ≠ 0 → s.writeReg offset size v = s ∧ s.readReg offset size = 0) ∧
    (s.turns = .hostRead offset size :: rest → step s = .next { s with turns := rest }) ∧
    (s.turns = .hostWrite offset size v :: rest → step s = .next ({ s with turns := rest }.writeReg offset size v))

/-- R83: the model refuses a host read or write of engine memory while BUSY = 1. -/
def Obligations.HostMemoryRefusedWhileBusy : Prop :=
  ∀ (s : State) (addr : Word) (b : Byte) (rest : List Turn), s.busy = true →
    (s.turns = .hostStore addr b :: rest ∨ s.turns = .hostLoad addr :: rest) →
      step s = .refused .hostMemoryAccessWhileBusy

/-- R81, R73: while idle a host write in memory changes the one byte and nothing else, a host read changes nothing, and an
address at or above MEM_SIZE faults (the fault is the model's form of "outside memory", entry 10). -/
def Obligations.HostMemoryWhileIdle : Prop :=
  ∀ (s : State) (addr : Word) (b : Byte) (rest : List Turn), s.busy = false →
    (s.turns = .hostStore addr b :: rest →
      (addr.toNat < s.memSize → ∃ u, step s = .next u ∧ u = { s with turns := rest, mem := u.mem } ∧
        u.byteAt addr.toNat = b ∧ ∀ x, x ≠ addr.toNat → u.byteAt x = s.byteAt x) ∧
      (s.memSize ≤ addr.toNat → step s = .fault .outsideMemory)) ∧
    (s.turns = .hostLoad addr :: rest →
      (addr.toNat < s.memSize → step s = .next { s with turns := rest }) ∧
      (s.memSize ≤ addr.toNat → step s = .fault .outsideMemory))

/-! ### Reset -/

/-- R280: every register reads its reset value, at power-on and after a reset of any state, the phase is IDLE, IRQ is
deasserted and no request is outstanding; a reset of an idle engine keeps memory. -/
def Obligations.ResetGivesTheTable : Prop :=
  (∀ offset : BitVec 8, State.reset.readReg offset .word = if offset = 0x34 then 4 else 0) ∧
  State.reset.phase = .idle ∧ State.reset.irq = false ∧
  ∀ (s : State) (rest : List Turn), s.turns = .reset :: rest →
    ∃ u, step s = .next u ∧ (∀ offset : BitVec 8, u.readReg offset .word = if offset = 0x34 then 4 else 0) ∧
      u.phase = .idle ∧ u.irq = false ∧ u.memSize = s.memSize ∧ (s.busy = false → u.mem = s.mem)

/-- R281: a reset, whatever turns follow it, lets only the bytes change that the aborted command writes by its rule, none
when idle, and a late capture answer changes nothing: neither an answer right after the reset nor, in any state and in a new WAIT_CAPTURE too, the turn
that stands for an answer to a withdrawn request. That the aborted command is the one that waits, or in phase RUN the one at
CPC, and the turn lateAnswer, are the model's reading (entry 12). -/
def Obligations.ResetTouchesOnlyTheAbortedCommand : Prop :=
  (∀ (s : State) (answer : CaptureAnswer) (rest : List Turn), s.turns = .lateAnswer answer :: rest →
    step s = .next { s with turns := rest }) ∧
  ∀ (s u : State) (rest : List Turn), s.Inv → s.turns = .reset :: rest → step s = .next u →
    (∀ answer later, rest = .captureAnswer answer :: later → step u = .next { u with turns := later }) ∧
    ∀ x, u.byteAt x ≠ s.byteAt x →
      (∃ i, ((s.phase = .run ∧ s.fetch = .ok i) ∨
          (∃ req, s.phase = .waitCapture req ∧
            i = match req.command with | .capture => .capture | .iterate => .iterate)) ∧
        match i with
        | .halt => False
        | .nop => False
        | .setup t r => ∃ q ∈ s.setupRanges t r, q.has x = true
        | .capture => s.curRange.has x = true
        | .diff => s.scratchRange.has x = true
        | .compress => s.txcfRange.has x = true
        | .swap => False
        | .iterate => s.curRange.has x = true ∨ s.scratchRange.has x = true ∨ s.txcfRange.has x = true
        | .decompress => s.scratchRange.has x = true
        | .merge => s.reconRange.has x = true
        | .receive => s.scratchRange.has x = true ∨ s.reconRange.has x = true)

/-! ### Invariants -/

/-- The invariant of `EveryStepKeepsTheInvariant` holds right after reset. -/
def Obligations.ResetMeetsTheInvariant : Prop := State.reset.Inv

/-- R35, R50, R73 to R76, R150: whatever the agents do, a step of a state that meets the invariant gives a state that
meets it: STATUS is consistent, memory canonical and inside MEM_SIZE, the session's buffers aligned, in memory and
disjoint, TXCF_SIZE within the capacity, and the request of a wait is for the current slot. -/
def Obligations.EveryStepKeepsTheInvariant : Prop :=
  ∀ s t : State, s.Inv → step s = .next t → t.Inv

/-- R35: BUSY = 1 implies DONE = 0 and ERR = 0, DONE and ERR are never both 1, and ERRCODE is 0 exactly when ERR is:
true at reset and kept by every step, from any state of which it is true. -/
def Obligations.StatusInvariantsAreKept : Prop :=
  let consistent := fun (s : State) =>
    let w := s.readReg 0x04 .word
    (w.getLsbD 0 = true → w.getLsbD 1 = false ∧ w.getLsbD 2 = false) ∧
    ¬(w.getLsbD 1 = true ∧ w.getLsbD 2 = true) ∧
    (w.getLsbD 2 = false → w.extractLsb' 8 8 = 0) ∧ (w.getLsbD 2 = true → w.extractLsb' 8 8 ≠ 0)
  consistent State.reset ∧ ∀ s t : State, consistent s → step s = .next t → consistent t

/-- R8: MEM_SIZE and the codec are parameters of the instance, which no step changes. -/
def Obligations.ParametersNeverChange : Prop :=
  ∀ s t : State, step s = .next t → t.memSize = s.memSize ∧ t.codecChoice = s.codecChoice

/-- R73, R75, R83: in a state that meets the invariant a step that faults is a host load or store outside memory, so no
engine step, answer or reset faults, and a step that is refused is a host load or store while busy or an answer of the
wrong length. That such an access while busy is refused is HostMemoryRefusedWhileBusy. The fault of a host access outside
memory (entry 10), the fault that an engine access outside memory would be (entry 11), and the refusal of an answer of the
wrong length (entry 8) are the model's choices. -/
def Obligations.InvariantStatesFaultOnlyByHostAccess : Prop :=
  ∀ s : State, s.Inv →
    (∀ f, step s = .fault f → ∃ addr rest, ((∃ b, s.turns = .hostStore addr b :: rest) ∨
      s.turns = .hostLoad addr :: rest) ∧ s.memSize ≤ addr.toNat) ∧
    (∀ f, step s = .refused f →
      (f = .hostMemoryAccessWhileBusy ∧ s.busy = true ∧
        ∃ addr rest, (∃ b, s.turns = .hostStore addr b :: rest) ∨ s.turns = .hostLoad addr :: rest) ∨
      (f = .captureAnswerLength ∧ ∃ req bytes rest, s.phase = .waitCapture req ∧
        s.turns = .captureAnswer (.ok bytes) :: rest ∧ bytes.length ≠ req.len.toNat))
end

