-- ==== Sys2Proof/Laws/State.lean ====
section
/-! SUPPORT. What each shared update does to each field of State: one small lemma each, so that no proof unfolds an update. -/

namespace Sys2Proof.Machine

variable (s : State)

/-! ### `State.withTurns` -/

@[simp] theorem State.withTurns_phase (ts : List Turn) : (s.withTurns ts).phase = s.phase := rfl
@[simp] theorem State.withTurns_cpc (ts : List Turn) : (s.withTurns ts).cpc = s.cpc := rfl
@[simp] theorem State.withTurns_done (ts : List Turn) : (s.withTurns ts).done = s.done := rfl
@[simp] theorem State.withTurns_err (ts : List Turn) : (s.withTurns ts).err = s.err := rfl
@[simp] theorem State.withTurns_errCode (ts : List Turn) : (s.withTurns ts).errCode = s.errCode := rfl
@[simp] theorem State.withTurns_wign (ts : List Turn) : (s.withTurns ts).wign = s.wign := rfl
@[simp] theorem State.withTurns_txv (ts : List Turn) : (s.withTurns ts).txv = s.txv := rfl
@[simp] theorem State.withTurns_rxv (ts : List Turn) : (s.withTurns ts).rxv = s.rxv := rfl
@[simp] theorem State.withTurns_prevSel (ts : List Turn) : (s.withTurns ts).prevSel = s.prevSel := rfl
@[simp] theorem State.withTurns_doneIe (ts : List Turn) : (s.withTurns ts).doneIe = s.doneIe := rfl
@[simp] theorem State.withTurns_errIe (ts : List Turn) : (s.withTurns ts).errIe = s.errIe := rfl
@[simp] theorem State.withTurns_regs (ts : List Turn) : (s.withTurns ts).regs = s.regs := rfl
@[simp] theorem State.withTurns_session (ts : List Turn) : (s.withTurns ts).session = s.session := rfl
@[simp] theorem State.withTurns_txcfSize (ts : List Turn) : (s.withTurns ts).txcfSize = s.txcfSize := rfl
@[simp] theorem State.withTurns_memSize (ts : List Turn) : (s.withTurns ts).memSize = s.memSize := rfl
@[simp] theorem State.withTurns_codecChoice (ts : List Turn) : (s.withTurns ts).codecChoice = s.codecChoice := rfl
@[simp] theorem State.withTurns_mem (ts : List Turn) : (s.withTurns ts).mem = s.mem := rfl
@[simp] theorem State.withTurns_draws (ts : List Turn) : (s.withTurns ts).draws = s.draws := rfl
@[simp] theorem State.withTurns_turns (ts : List Turn) : (s.withTurns ts).turns = ts := rfl

/-! ### `State.writeBytes` -/

@[simp] theorem State.writeBytes_phase (a : Nat) (bs : List Byte) : (s.writeBytes a bs).phase = s.phase := rfl
@[simp] theorem State.writeBytes_cpc (a : Nat) (bs : List Byte) : (s.writeBytes a bs).cpc = s.cpc := rfl
@[simp] theorem State.writeBytes_done (a : Nat) (bs : List Byte) : (s.writeBytes a bs).done = s.done := rfl
@[simp] theorem State.writeBytes_err (a : Nat) (bs : List Byte) : (s.writeBytes a bs).err = s.err := rfl
@[simp] theorem State.writeBytes_errCode (a : Nat) (bs : List Byte) : (s.writeBytes a bs).errCode = s.errCode := rfl
@[simp] theorem State.writeBytes_wign (a : Nat) (bs : List Byte) : (s.writeBytes a bs).wign = s.wign := rfl
@[simp] theorem State.writeBytes_txv (a : Nat) (bs : List Byte) : (s.writeBytes a bs).txv = s.txv := rfl
@[simp] theorem State.writeBytes_rxv (a : Nat) (bs : List Byte) : (s.writeBytes a bs).rxv = s.rxv := rfl
@[simp] theorem State.writeBytes_prevSel (a : Nat) (bs : List Byte) : (s.writeBytes a bs).prevSel = s.prevSel := rfl
@[simp] theorem State.writeBytes_doneIe (a : Nat) (bs : List Byte) : (s.writeBytes a bs).doneIe = s.doneIe := rfl
@[simp] theorem State.writeBytes_errIe (a : Nat) (bs : List Byte) : (s.writeBytes a bs).errIe = s.errIe := rfl
@[simp] theorem State.writeBytes_regs (a : Nat) (bs : List Byte) : (s.writeBytes a bs).regs = s.regs := rfl
@[simp] theorem State.writeBytes_session (a : Nat) (bs : List Byte) : (s.writeBytes a bs).session = s.session := rfl
@[simp] theorem State.writeBytes_txcfSize (a : Nat) (bs : List Byte) :
    (s.writeBytes a bs).txcfSize = s.txcfSize := rfl
@[simp] theorem State.writeBytes_memSize (a : Nat) (bs : List Byte) : (s.writeBytes a bs).memSize = s.memSize := rfl
@[simp] theorem State.writeBytes_codecChoice (a : Nat) (bs : List Byte) :
    (s.writeBytes a bs).codecChoice = s.codecChoice := rfl
@[simp] theorem State.writeBytes_mem (a : Nat) (bs : List Byte) :
    (s.writeBytes a bs).mem = s.mem.storeBytes a bs := rfl
@[simp] theorem State.writeBytes_draws (a : Nat) (bs : List Byte) : (s.writeBytes a bs).draws = s.draws := rfl
@[simp] theorem State.writeBytes_turns (a : Nat) (bs : List Byte) : (s.writeBytes a bs).turns = s.turns := rfl

/-! ### `State.scramble` -/

@[simp] theorem State.scramble_phase (a n : Nat) : (s.scramble a n).phase = s.phase := rfl
@[simp] theorem State.scramble_cpc (a n : Nat) : (s.scramble a n).cpc = s.cpc := rfl
@[simp] theorem State.scramble_done (a n : Nat) : (s.scramble a n).done = s.done := rfl
@[simp] theorem State.scramble_err (a n : Nat) : (s.scramble a n).err = s.err := rfl
@[simp] theorem State.scramble_errCode (a n : Nat) : (s.scramble a n).errCode = s.errCode := rfl
@[simp] theorem State.scramble_wign (a n : Nat) : (s.scramble a n).wign = s.wign := rfl
@[simp] theorem State.scramble_txv (a n : Nat) : (s.scramble a n).txv = s.txv := rfl
@[simp] theorem State.scramble_rxv (a n : Nat) : (s.scramble a n).rxv = s.rxv := rfl
@[simp] theorem State.scramble_prevSel (a n : Nat) : (s.scramble a n).prevSel = s.prevSel := rfl
@[simp] theorem State.scramble_doneIe (a n : Nat) : (s.scramble a n).doneIe = s.doneIe := rfl
@[simp] theorem State.scramble_errIe (a n : Nat) : (s.scramble a n).errIe = s.errIe := rfl
@[simp] theorem State.scramble_regs (a n : Nat) : (s.scramble a n).regs = s.regs := rfl
@[simp] theorem State.scramble_session (a n : Nat) : (s.scramble a n).session = s.session := rfl
@[simp] theorem State.scramble_txcfSize (a n : Nat) : (s.scramble a n).txcfSize = s.txcfSize := rfl
@[simp] theorem State.scramble_memSize (a n : Nat) : (s.scramble a n).memSize = s.memSize := rfl
@[simp] theorem State.scramble_codecChoice (a n : Nat) : (s.scramble a n).codecChoice = s.codecChoice := rfl
@[simp] theorem State.scramble_mem (a n : Nat) :
    (s.scramble a n).mem = s.mem.storeBytes a (freeBytes s.draws n) := rfl
@[simp] theorem State.scramble_draws (a n : Nat) : (s.scramble a n).draws = s.draws + n := rfl
@[simp] theorem State.scramble_turns (a n : Nat) : (s.scramble a n).turns = s.turns := rfl

/-! ### `State.advance` -/

@[simp] theorem State.advance_phase : s.advance.phase = s.phase := rfl
@[simp] theorem State.advance_cpc : s.advance.cpc = s.cpc + 4 := rfl
@[simp] theorem State.advance_done : s.advance.done = s.done := rfl
@[simp] theorem State.advance_err : s.advance.err = s.err := rfl
@[simp] theorem State.advance_errCode : s.advance.errCode = s.errCode := rfl
@[simp] theorem State.advance_wign : s.advance.wign = s.wign := rfl
@[simp] theorem State.advance_txv : s.advance.txv = s.txv := rfl
@[simp] theorem State.advance_rxv : s.advance.rxv = s.rxv := rfl
@[simp] theorem State.advance_prevSel : s.advance.prevSel = s.prevSel := rfl
@[simp] theorem State.advance_doneIe : s.advance.doneIe = s.doneIe := rfl
@[simp] theorem State.advance_errIe : s.advance.errIe = s.errIe := rfl
@[simp] theorem State.advance_regs : s.advance.regs = s.regs := rfl
@[simp] theorem State.advance_session : s.advance.session = s.session := rfl
@[simp] theorem State.advance_txcfSize : s.advance.txcfSize = s.txcfSize := rfl
@[simp] theorem State.advance_memSize : s.advance.memSize = s.memSize := rfl
@[simp] theorem State.advance_codecChoice : s.advance.codecChoice = s.codecChoice := rfl
@[simp] theorem State.advance_mem : s.advance.mem = s.mem := rfl
@[simp] theorem State.advance_draws : s.advance.draws = s.draws := rfl
@[simp] theorem State.advance_turns : s.advance.turns = s.turns := rfl

/-! ### `State.raiseError` -/

@[simp] theorem State.raiseError_phase (code : ErrorCode) : (s.raiseError code).phase = .idle := rfl
@[simp] theorem State.raiseError_cpc (code : ErrorCode) : (s.raiseError code).cpc = s.cpc := rfl
@[simp] theorem State.raiseError_done (code : ErrorCode) : (s.raiseError code).done = s.done := rfl
@[simp] theorem State.raiseError_err (code : ErrorCode) : (s.raiseError code).err = true := rfl
@[simp] theorem State.raiseError_errCode (code : ErrorCode) : (s.raiseError code).errCode = code := rfl
@[simp] theorem State.raiseError_wign (code : ErrorCode) : (s.raiseError code).wign = s.wign := rfl
@[simp] theorem State.raiseError_txv (code : ErrorCode) : (s.raiseError code).txv = s.txv := rfl
@[simp] theorem State.raiseError_rxv (code : ErrorCode) : (s.raiseError code).rxv = s.rxv := rfl
@[simp] theorem State.raiseError_prevSel (code : ErrorCode) : (s.raiseError code).prevSel = s.prevSel := rfl
@[simp] theorem State.raiseError_doneIe (code : ErrorCode) : (s.raiseError code).doneIe = s.doneIe := rfl
@[simp] theorem State.raiseError_errIe (code : ErrorCode) : (s.raiseError code).errIe = s.errIe := rfl
@[simp] theorem State.raiseError_regs (code : ErrorCode) : (s.raiseError code).regs = s.regs := rfl
@[simp] theorem State.raiseError_session (code : ErrorCode) : (s.raiseError code).session = s.session := rfl
@[simp] theorem State.raiseError_txcfSize (code : ErrorCode) : (s.raiseError code).txcfSize = s.txcfSize := rfl
@[simp] theorem State.raiseError_memSize (code : ErrorCode) : (s.raiseError code).memSize = s.memSize := rfl
@[simp] theorem State.raiseError_codecChoice (code : ErrorCode) :
    (s.raiseError code).codecChoice = s.codecChoice := rfl
@[simp] theorem State.raiseError_mem (code : ErrorCode) : (s.raiseError code).mem = s.mem := rfl
@[simp] theorem State.raiseError_draws (code : ErrorCode) : (s.raiseError code).draws = s.draws := rfl
@[simp] theorem State.raiseError_turns (code : ErrorCode) : (s.raiseError code).turns = s.turns := rfl

/-! ### `State.startRun` -/

@[simp] theorem State.startRun_phase : s.startRun.phase = .run := rfl
@[simp] theorem State.startRun_cpc : s.startRun.cpc = s.cpc := rfl
@[simp] theorem State.startRun_done : s.startRun.done = false := rfl
@[simp] theorem State.startRun_err : s.startRun.err = false := rfl
@[simp] theorem State.startRun_errCode : s.startRun.errCode = .noError := rfl
@[simp] theorem State.startRun_wign : s.startRun.wign = s.wign := rfl
@[simp] theorem State.startRun_txv : s.startRun.txv = s.txv := rfl
@[simp] theorem State.startRun_rxv : s.startRun.rxv = s.rxv := rfl
@[simp] theorem State.startRun_prevSel : s.startRun.prevSel = s.prevSel := rfl
@[simp] theorem State.startRun_doneIe : s.startRun.doneIe = s.doneIe := rfl
@[simp] theorem State.startRun_errIe : s.startRun.errIe = s.errIe := rfl
@[simp] theorem State.startRun_regs : s.startRun.regs = s.regs := rfl
@[simp] theorem State.startRun_session : s.startRun.session = s.session := rfl
@[simp] theorem State.startRun_txcfSize : s.startRun.txcfSize = s.txcfSize := rfl
@[simp] theorem State.startRun_memSize : s.startRun.memSize = s.memSize := rfl
@[simp] theorem State.startRun_codecChoice : s.startRun.codecChoice = s.codecChoice := rfl
@[simp] theorem State.startRun_mem : s.startRun.mem = s.mem := rfl
@[simp] theorem State.startRun_draws : s.startRun.draws = s.draws := rfl
@[simp] theorem State.startRun_turns : s.startRun.turns = s.turns := rfl

/-! ### `State.requestCapture` -/

@[simp] theorem State.requestCapture_phase (command : WaitingCommand) :
    (s.requestCapture command).phase = .waitCapture ⟨s.curSlot, s.session.frameLen, command⟩ := rfl
@[simp] theorem State.requestCapture_cpc (command : WaitingCommand) : (s.requestCapture command).cpc = s.cpc := rfl
@[simp] theorem State.requestCapture_done (command : WaitingCommand) : (s.requestCapture command).done = s.done := rfl
@[simp] theorem State.requestCapture_err (command : WaitingCommand) : (s.requestCapture command).err = s.err := rfl
@[simp] theorem State.requestCapture_errCode (command : WaitingCommand) :
    (s.requestCapture command).errCode = s.errCode := rfl
@[simp] theorem State.requestCapture_wign (command : WaitingCommand) : (s.requestCapture command).wign = s.wign := rfl
@[simp] theorem State.requestCapture_txv (command : WaitingCommand) : (s.requestCapture command).txv = s.txv := rfl
@[simp] theorem State.requestCapture_rxv (command : WaitingCommand) : (s.requestCapture command).rxv = s.rxv := rfl
@[simp] theorem State.requestCapture_prevSel (command : WaitingCommand) :
    (s.requestCapture command).prevSel = s.prevSel := rfl
@[simp] theorem State.requestCapture_doneIe (command : WaitingCommand) :
    (s.requestCapture command).doneIe = s.doneIe := rfl
@[simp] theorem State.requestCapture_errIe (command : WaitingCommand) :
    (s.requestCapture command).errIe = s.errIe := rfl
@[simp] theorem State.requestCapture_regs (command : WaitingCommand) : (s.requestCapture command).regs = s.regs := rfl
@[simp] theorem State.requestCapture_session (command : WaitingCommand) :
    (s.requestCapture command).session = s.session := rfl
@[simp] theorem State.requestCapture_txcfSize (command : WaitingCommand) :
    (s.requestCapture command).txcfSize = s.txcfSize := rfl
@[simp] theorem State.requestCapture_memSize (command : WaitingCommand) :
    (s.requestCapture command).memSize = s.memSize := rfl
@[simp] theorem State.requestCapture_codecChoice (command : WaitingCommand) :
    (s.requestCapture command).codecChoice = s.codecChoice := rfl
@[simp] theorem State.requestCapture_mem (command : WaitingCommand) : (s.requestCapture command).mem = s.mem := rfl
@[simp] theorem State.requestCapture_draws (command : WaitingCommand) :
    (s.requestCapture command).draws = s.draws := rfl
@[simp] theorem State.requestCapture_turns (command : WaitingCommand) :
    (s.requestCapture command).turns = s.turns := rfl

/-! ### `State.swapSlots` -/

@[simp] theorem State.swapSlots_phase : s.swapSlots.phase = s.phase := rfl
@[simp] theorem State.swapSlots_cpc : s.swapSlots.cpc = s.cpc := rfl
@[simp] theorem State.swapSlots_done : s.swapSlots.done = s.done := rfl
@[simp] theorem State.swapSlots_err : s.swapSlots.err = s.err := rfl
@[simp] theorem State.swapSlots_errCode : s.swapSlots.errCode = s.errCode := rfl
@[simp] theorem State.swapSlots_wign : s.swapSlots.wign = s.wign := rfl
@[simp] theorem State.swapSlots_txv : s.swapSlots.txv = s.txv := rfl
@[simp] theorem State.swapSlots_rxv : s.swapSlots.rxv = s.rxv := rfl
@[simp] theorem State.swapSlots_prevSel : s.swapSlots.prevSel = !s.prevSel := rfl
@[simp] theorem State.swapSlots_doneIe : s.swapSlots.doneIe = s.doneIe := rfl
@[simp] theorem State.swapSlots_errIe : s.swapSlots.errIe = s.errIe := rfl
@[simp] theorem State.swapSlots_regs : s.swapSlots.regs = s.regs := rfl
@[simp] theorem State.swapSlots_session : s.swapSlots.session = s.session := rfl
@[simp] theorem State.swapSlots_txcfSize : s.swapSlots.txcfSize = s.txcfSize := rfl
@[simp] theorem State.swapSlots_memSize : s.swapSlots.memSize = s.memSize := rfl
@[simp] theorem State.swapSlots_codecChoice : s.swapSlots.codecChoice = s.codecChoice := rfl
@[simp] theorem State.swapSlots_mem : s.swapSlots.mem = s.mem := rfl
@[simp] theorem State.swapSlots_draws : s.swapSlots.draws = s.draws := rfl
@[simp] theorem State.swapSlots_turns : s.swapSlots.turns = s.turns := rfl

/-! ### `State.captured` -/

@[simp] theorem State.captured_phase (req : CaptureRequest) (bs : List Byte) : (s.captured req bs).phase = .run := rfl
@[simp] theorem State.captured_cpc (req : CaptureRequest) (bs : List Byte) : (s.captured req bs).cpc = s.cpc := rfl
@[simp] theorem State.captured_done (req : CaptureRequest) (bs : List Byte) : (s.captured req bs).done = s.done := rfl
@[simp] theorem State.captured_err (req : CaptureRequest) (bs : List Byte) : (s.captured req bs).err = s.err := rfl
@[simp] theorem State.captured_errCode (req : CaptureRequest) (bs : List Byte) :
    (s.captured req bs).errCode = s.errCode := rfl
@[simp] theorem State.captured_wign (req : CaptureRequest) (bs : List Byte) : (s.captured req bs).wign = s.wign := rfl
@[simp] theorem State.captured_txv (req : CaptureRequest) (bs : List Byte) : (s.captured req bs).txv = s.txv := rfl
@[simp] theorem State.captured_rxv (req : CaptureRequest) (bs : List Byte) : (s.captured req bs).rxv = s.rxv := rfl
@[simp] theorem State.captured_prevSel (req : CaptureRequest) (bs : List Byte) :
    (s.captured req bs).prevSel = s.prevSel := rfl
@[simp] theorem State.captured_doneIe (req : CaptureRequest) (bs : List Byte) :
    (s.captured req bs).doneIe = s.doneIe := rfl
@[simp] theorem State.captured_errIe (req : CaptureRequest) (bs : List Byte) :
    (s.captured req bs).errIe = s.errIe := rfl
@[simp] theorem State.captured_regs (req : CaptureRequest) (bs : List Byte) : (s.captured req bs).regs = s.regs := rfl
@[simp] theorem State.captured_session (req : CaptureRequest) (bs : List Byte) :
    (s.captured req bs).session = s.session := rfl
@[simp] theorem State.captured_txcfSize (req : CaptureRequest) (bs : List Byte) :
    (s.captured req bs).txcfSize = s.txcfSize := rfl
@[simp] theorem State.captured_memSize (req : CaptureRequest) (bs : List Byte) :
    (s.captured req bs).memSize = s.memSize := rfl
@[simp] theorem State.captured_codecChoice (req : CaptureRequest) (bs : List Byte) :
    (s.captured req bs).codecChoice = s.codecChoice := rfl
@[simp] theorem State.captured_mem (req : CaptureRequest) (bs : List Byte) :
    (s.captured req bs).mem = s.mem.storeBytes req.base.toNat bs := rfl
@[simp] theorem State.captured_draws (req : CaptureRequest) (bs : List Byte) :
    (s.captured req bs).draws = s.draws := rfl
@[simp] theorem State.captured_turns (req : CaptureRequest) (bs : List Byte) :
    (s.captured req bs).turns = s.turns := rfl

/-! ### `State.captureFailed` -/

@[simp] theorem State.captureFailed_phase (req : CaptureRequest) : (s.captureFailed req).phase = .run := rfl
@[simp] theorem State.captureFailed_cpc (req : CaptureRequest) : (s.captureFailed req).cpc = s.cpc := rfl
@[simp] theorem State.captureFailed_done (req : CaptureRequest) : (s.captureFailed req).done = s.done := rfl
@[simp] theorem State.captureFailed_err (req : CaptureRequest) : (s.captureFailed req).err = s.err := rfl
@[simp] theorem State.captureFailed_errCode (req : CaptureRequest) : (s.captureFailed req).errCode = s.errCode := rfl
@[simp] theorem State.captureFailed_wign (req : CaptureRequest) : (s.captureFailed req).wign = s.wign := rfl
@[simp] theorem State.captureFailed_txv (req : CaptureRequest) : (s.captureFailed req).txv = s.txv := rfl
@[simp] theorem State.captureFailed_rxv (req : CaptureRequest) : (s.captureFailed req).rxv = s.rxv := rfl
@[simp] theorem State.captureFailed_prevSel (req : CaptureRequest) : (s.captureFailed req).prevSel = s.prevSel := rfl
@[simp] theorem State.captureFailed_doneIe (req : CaptureRequest) : (s.captureFailed req).doneIe = s.doneIe := rfl
@[simp] theorem State.captureFailed_errIe (req : CaptureRequest) : (s.captureFailed req).errIe = s.errIe := rfl
@[simp] theorem State.captureFailed_regs (req : CaptureRequest) : (s.captureFailed req).regs = s.regs := rfl
@[simp] theorem State.captureFailed_session (req : CaptureRequest) : (s.captureFailed req).session = s.session := rfl
@[simp] theorem State.captureFailed_txcfSize (req : CaptureRequest) :
    (s.captureFailed req).txcfSize = s.txcfSize := rfl
@[simp] theorem State.captureFailed_memSize (req : CaptureRequest) : (s.captureFailed req).memSize = s.memSize := rfl
@[simp] theorem State.captureFailed_codecChoice (req : CaptureRequest) :
    (s.captureFailed req).codecChoice = s.codecChoice := rfl
@[simp] theorem State.captureFailed_mem (req : CaptureRequest) :
    (s.captureFailed req).mem = s.mem.storeBytes req.base.toNat (freeBytes s.draws req.len.toNat) := rfl
@[simp] theorem State.captureFailed_draws (req : CaptureRequest) :
    (s.captureFailed req).draws = s.draws + req.len.toNat := rfl
@[simp] theorem State.captureFailed_turns (req : CaptureRequest) : (s.captureFailed req).turns = s.turns := rfl

/-! ### `State.writeDelta` -/

@[simp] theorem State.writeDelta_phase : s.writeDelta.phase = s.phase := rfl
@[simp] theorem State.writeDelta_cpc : s.writeDelta.cpc = s.cpc := rfl
@[simp] theorem State.writeDelta_done : s.writeDelta.done = s.done := rfl
@[simp] theorem State.writeDelta_err : s.writeDelta.err = s.err := rfl
@[simp] theorem State.writeDelta_errCode : s.writeDelta.errCode = s.errCode := rfl
@[simp] theorem State.writeDelta_wign : s.writeDelta.wign = s.wign := rfl
@[simp] theorem State.writeDelta_txv : s.writeDelta.txv = s.txv := rfl
@[simp] theorem State.writeDelta_rxv : s.writeDelta.rxv = s.rxv := rfl
@[simp] theorem State.writeDelta_prevSel : s.writeDelta.prevSel = s.prevSel := rfl
@[simp] theorem State.writeDelta_doneIe : s.writeDelta.doneIe = s.doneIe := rfl
@[simp] theorem State.writeDelta_errIe : s.writeDelta.errIe = s.errIe := rfl
@[simp] theorem State.writeDelta_regs : s.writeDelta.regs = s.regs := rfl
@[simp] theorem State.writeDelta_session : s.writeDelta.session = s.session := rfl
@[simp] theorem State.writeDelta_txcfSize : s.writeDelta.txcfSize = s.txcfSize := rfl
@[simp] theorem State.writeDelta_memSize : s.writeDelta.memSize = s.memSize := rfl
@[simp] theorem State.writeDelta_codecChoice : s.writeDelta.codecChoice = s.codecChoice := rfl
@[simp] theorem State.writeDelta_mem :
    s.writeDelta.mem = s.mem.storeBytes s.session.scratch.toNat (xorw (s.frameAt s.curSlot) (s.frameAt s.prevSlot)) := rfl
@[simp] theorem State.writeDelta_draws : s.writeDelta.draws = s.draws := rfl
@[simp] theorem State.writeDelta_turns : s.writeDelta.turns = s.turns := rfl

/-! ### `State.mergeInto` -/

@[simp] theorem State.mergeInto_phase (x : List Byte) : (s.mergeInto x).phase = s.phase := rfl
@[simp] theorem State.mergeInto_cpc (x : List Byte) : (s.mergeInto x).cpc = s.cpc := rfl
@[simp] theorem State.mergeInto_done (x : List Byte) : (s.mergeInto x).done = s.done := rfl
@[simp] theorem State.mergeInto_err (x : List Byte) : (s.mergeInto x).err = s.err := rfl
@[simp] theorem State.mergeInto_errCode (x : List Byte) : (s.mergeInto x).errCode = s.errCode := rfl
@[simp] theorem State.mergeInto_wign (x : List Byte) : (s.mergeInto x).wign = s.wign := rfl
@[simp] theorem State.mergeInto_txv (x : List Byte) : (s.mergeInto x).txv = s.txv := rfl
@[simp] theorem State.mergeInto_rxv (x : List Byte) : (s.mergeInto x).rxv = s.rxv := rfl
@[simp] theorem State.mergeInto_prevSel (x : List Byte) : (s.mergeInto x).prevSel = s.prevSel := rfl
@[simp] theorem State.mergeInto_doneIe (x : List Byte) : (s.mergeInto x).doneIe = s.doneIe := rfl
@[simp] theorem State.mergeInto_errIe (x : List Byte) : (s.mergeInto x).errIe = s.errIe := rfl
@[simp] theorem State.mergeInto_regs (x : List Byte) : (s.mergeInto x).regs = s.regs := rfl
@[simp] theorem State.mergeInto_session (x : List Byte) : (s.mergeInto x).session = s.session := rfl
@[simp] theorem State.mergeInto_txcfSize (x : List Byte) : (s.mergeInto x).txcfSize = s.txcfSize := rfl
@[simp] theorem State.mergeInto_memSize (x : List Byte) : (s.mergeInto x).memSize = s.memSize := rfl
@[simp] theorem State.mergeInto_codecChoice (x : List Byte) : (s.mergeInto x).codecChoice = s.codecChoice := rfl
@[simp] theorem State.mergeInto_mem (x : List Byte) :
    (s.mergeInto x).mem = s.mem.storeBytes s.session.recon.toNat (xorw (s.frameAt s.session.recon) x) := rfl
@[simp] theorem State.mergeInto_draws (x : List Byte) : (s.mergeInto x).draws = s.draws := rfl
@[simp] theorem State.mergeInto_turns (x : List Byte) : (s.mergeInto x).turns = s.turns := rfl

/-! ### `State.writePayload` -/

@[simp] theorem State.writePayload_phase : s.writePayload.phase = s.phase := rfl
@[simp] theorem State.writePayload_cpc : s.writePayload.cpc = s.cpc := rfl
@[simp] theorem State.writePayload_done : s.writePayload.done = s.done := rfl
@[simp] theorem State.writePayload_err : s.writePayload.err = s.err := rfl
@[simp] theorem State.writePayload_errCode : s.writePayload.errCode = s.errCode := rfl
@[simp] theorem State.writePayload_wign : s.writePayload.wign = s.wign := rfl
@[simp] theorem State.writePayload_txv : s.writePayload.txv = s.txv := rfl
@[simp] theorem State.writePayload_rxv : s.writePayload.rxv = s.rxv := rfl
@[simp] theorem State.writePayload_prevSel : s.writePayload.prevSel = s.prevSel := rfl
@[simp] theorem State.writePayload_doneIe : s.writePayload.doneIe = s.doneIe := rfl
@[simp] theorem State.writePayload_errIe : s.writePayload.errIe = s.errIe := rfl
@[simp] theorem State.writePayload_regs : s.writePayload.regs = s.regs := rfl
@[simp] theorem State.writePayload_session : s.writePayload.session = s.session := rfl
@[simp] theorem State.writePayload_txcfSize :
    s.writePayload.txcfSize = BitVec.ofNat 32 (4 + s.payloadBody.length) := rfl
@[simp] theorem State.writePayload_memSize : s.writePayload.memSize = s.memSize := rfl
@[simp] theorem State.writePayload_codecChoice : s.writePayload.codecChoice = s.codecChoice := rfl
@[simp] theorem State.writePayload_mem :
    s.writePayload.mem = s.mem.storeBytes s.session.txcfBase.toNat (le32 s.session.frameLen ++ s.payloadBody) := rfl
@[simp] theorem State.writePayload_draws : s.writePayload.draws = s.draws := rfl
@[simp] theorem State.writePayload_turns : s.writePayload.turns = s.turns := rfl

/-! ### `State.setupSession` -/

@[simp] theorem State.setupSession_phase (t r : Bool) : (s.setupSession t r).phase = s.phase := rfl
@[simp] theorem State.setupSession_cpc (t r : Bool) : (s.setupSession t r).cpc = s.cpc := rfl
@[simp] theorem State.setupSession_done (t r : Bool) : (s.setupSession t r).done = s.done := rfl
@[simp] theorem State.setupSession_err (t r : Bool) : (s.setupSession t r).err = s.err := rfl
@[simp] theorem State.setupSession_errCode (t r : Bool) : (s.setupSession t r).errCode = s.errCode := rfl
@[simp] theorem State.setupSession_wign (t r : Bool) : (s.setupSession t r).wign = s.wign := rfl
@[simp] theorem State.setupSession_txv (t r : Bool) : (s.setupSession t r).txv = t := rfl
@[simp] theorem State.setupSession_rxv (t r : Bool) : (s.setupSession t r).rxv = r := rfl
@[simp] theorem State.setupSession_prevSel (t r : Bool) :
    (s.setupSession t r).prevSel = if t then false else s.prevSel := rfl
@[simp] theorem State.setupSession_doneIe (t r : Bool) : (s.setupSession t r).doneIe = s.doneIe := rfl
@[simp] theorem State.setupSession_errIe (t r : Bool) : (s.setupSession t r).errIe = s.errIe := rfl
@[simp] theorem State.setupSession_regs (t r : Bool) : (s.setupSession t r).regs = s.regs := rfl
@[simp] theorem State.setupSession_session (t r : Bool) : (s.setupSession t r).session = s.setupValues t r := rfl
@[simp] theorem State.setupSession_txcfSize (t r : Bool) :
    (s.setupSession t r).txcfSize = if t then 4 else s.txcfSize := rfl
@[simp] theorem State.setupSession_memSize (t r : Bool) : (s.setupSession t r).memSize = s.memSize := rfl
@[simp] theorem State.setupSession_codecChoice (t r : Bool) : (s.setupSession t r).codecChoice = s.codecChoice := rfl
@[simp] theorem State.setupSession_mem (t r : Bool) : (s.setupSession t r).mem = s.setupMemory t r := rfl
@[simp] theorem State.setupSession_draws (t r : Bool) : (s.setupSession t r).draws = s.draws := rfl
@[simp] theorem State.setupSession_turns (t r : Bool) : (s.setupSession t r).turns = s.turns := rfl

/-! ### `State.ignoreWrite` -/

@[simp] theorem State.ignoreWrite_phase : s.ignoreWrite.phase = s.phase := rfl
@[simp] theorem State.ignoreWrite_cpc : s.ignoreWrite.cpc = s.cpc := rfl
@[simp] theorem State.ignoreWrite_done : s.ignoreWrite.done = s.done := rfl
@[simp] theorem State.ignoreWrite_err : s.ignoreWrite.err = s.err := rfl
@[simp] theorem State.ignoreWrite_errCode : s.ignoreWrite.errCode = s.errCode := rfl
@[simp] theorem State.ignoreWrite_wign : s.ignoreWrite.wign = true := rfl
@[simp] theorem State.ignoreWrite_txv : s.ignoreWrite.txv = s.txv := rfl
@[simp] theorem State.ignoreWrite_rxv : s.ignoreWrite.rxv = s.rxv := rfl
@[simp] theorem State.ignoreWrite_prevSel : s.ignoreWrite.prevSel = s.prevSel := rfl
@[simp] theorem State.ignoreWrite_doneIe : s.ignoreWrite.doneIe = s.doneIe := rfl
@[simp] theorem State.ignoreWrite_errIe : s.ignoreWrite.errIe = s.errIe := rfl
@[simp] theorem State.ignoreWrite_regs : s.ignoreWrite.regs = s.regs := rfl
@[simp] theorem State.ignoreWrite_session : s.ignoreWrite.session = s.session := rfl
@[simp] theorem State.ignoreWrite_txcfSize : s.ignoreWrite.txcfSize = s.txcfSize := rfl
@[simp] theorem State.ignoreWrite_memSize : s.ignoreWrite.memSize = s.memSize := rfl
@[simp] theorem State.ignoreWrite_codecChoice : s.ignoreWrite.codecChoice = s.codecChoice := rfl
@[simp] theorem State.ignoreWrite_mem : s.ignoreWrite.mem = s.mem := rfl
@[simp] theorem State.ignoreWrite_draws : s.ignoreWrite.draws = s.draws := rfl
@[simp] theorem State.ignoreWrite_turns : s.ignoreWrite.turns = s.turns := rfl

/-! ### `State.writeIrqEn` -/

@[simp] theorem State.writeIrqEn_phase (v : Word) : (s.writeIrqEn v).phase = s.phase := rfl
@[simp] theorem State.writeIrqEn_cpc (v : Word) : (s.writeIrqEn v).cpc = s.cpc := rfl
@[simp] theorem State.writeIrqEn_done (v : Word) : (s.writeIrqEn v).done = s.done := rfl
@[simp] theorem State.writeIrqEn_err (v : Word) : (s.writeIrqEn v).err = s.err := rfl
@[simp] theorem State.writeIrqEn_errCode (v : Word) : (s.writeIrqEn v).errCode = s.errCode := rfl
@[simp] theorem State.writeIrqEn_wign (v : Word) : (s.writeIrqEn v).wign = s.wign := rfl
@[simp] theorem State.writeIrqEn_txv (v : Word) : (s.writeIrqEn v).txv = s.txv := rfl
@[simp] theorem State.writeIrqEn_rxv (v : Word) : (s.writeIrqEn v).rxv = s.rxv := rfl
@[simp] theorem State.writeIrqEn_prevSel (v : Word) : (s.writeIrqEn v).prevSel = s.prevSel := rfl
@[simp] theorem State.writeIrqEn_doneIe (v : Word) : (s.writeIrqEn v).doneIe = v.getLsbD 1 := rfl
@[simp] theorem State.writeIrqEn_errIe (v : Word) : (s.writeIrqEn v).errIe = v.getLsbD 2 := rfl
@[simp] theorem State.writeIrqEn_regs (v : Word) : (s.writeIrqEn v).regs = s.regs := rfl
@[simp] theorem State.writeIrqEn_session (v : Word) : (s.writeIrqEn v).session = s.session := rfl
@[simp] theorem State.writeIrqEn_txcfSize (v : Word) : (s.writeIrqEn v).txcfSize = s.txcfSize := rfl
@[simp] theorem State.writeIrqEn_memSize (v : Word) : (s.writeIrqEn v).memSize = s.memSize := rfl
@[simp] theorem State.writeIrqEn_codecChoice (v : Word) : (s.writeIrqEn v).codecChoice = s.codecChoice := rfl
@[simp] theorem State.writeIrqEn_mem (v : Word) : (s.writeIrqEn v).mem = s.mem := rfl
@[simp] theorem State.writeIrqEn_draws (v : Word) : (s.writeIrqEn v).draws = s.draws := rfl
@[simp] theorem State.writeIrqEn_turns (v : Word) : (s.writeIrqEn v).turns = s.turns := rfl

/-! ### `State.writeStatus` -/

@[simp] theorem State.writeStatus_phase (v : Word) : (s.writeStatus v).phase = s.phase := rfl
@[simp] theorem State.writeStatus_cpc (v : Word) : (s.writeStatus v).cpc = s.cpc := rfl
@[simp] theorem State.writeStatus_done (v : Word) : (s.writeStatus v).done = (s.done && !v.getLsbD 1) := rfl
@[simp] theorem State.writeStatus_err (v : Word) : (s.writeStatus v).err = (s.err && !v.getLsbD 2) := rfl
@[simp] theorem State.writeStatus_errCode (v : Word) :
    (s.writeStatus v).errCode = if v.getLsbD 2 then .noError else s.errCode := rfl
@[simp] theorem State.writeStatus_wign (v : Word) : (s.writeStatus v).wign = (s.wign && !v.getLsbD 3) := rfl
@[simp] theorem State.writeStatus_txv (v : Word) : (s.writeStatus v).txv = s.txv := rfl
@[simp] theorem State.writeStatus_rxv (v : Word) : (s.writeStatus v).rxv = s.rxv := rfl
@[simp] theorem State.writeStatus_prevSel (v : Word) : (s.writeStatus v).prevSel = s.prevSel := rfl
@[simp] theorem State.writeStatus_doneIe (v : Word) : (s.writeStatus v).doneIe = s.doneIe := rfl
@[simp] theorem State.writeStatus_errIe (v : Word) : (s.writeStatus v).errIe = s.errIe := rfl
@[simp] theorem State.writeStatus_regs (v : Word) : (s.writeStatus v).regs = s.regs := rfl
@[simp] theorem State.writeStatus_session (v : Word) : (s.writeStatus v).session = s.session := rfl
@[simp] theorem State.writeStatus_txcfSize (v : Word) : (s.writeStatus v).txcfSize = s.txcfSize := rfl
@[simp] theorem State.writeStatus_memSize (v : Word) : (s.writeStatus v).memSize = s.memSize := rfl
@[simp] theorem State.writeStatus_codecChoice (v : Word) : (s.writeStatus v).codecChoice = s.codecChoice := rfl
@[simp] theorem State.writeStatus_mem (v : Word) : (s.writeStatus v).mem = s.mem := rfl
@[simp] theorem State.writeStatus_draws (v : Word) : (s.writeStatus v).draws = s.draws := rfl
@[simp] theorem State.writeStatus_turns (v : Word) : (s.writeStatus v).turns = s.turns := rfl

end Sys2Proof.Machine
end

