-- ==== Sys2Proof/Laws/Memory.lean ====
section
/-! SUPPORT. The laws of engine memory: read after write, a write leaves the rest alone, every write keeps the canonical
form, equal reads of canonical memories are equal data. -/

namespace Sys2Proof.Machine

/-! ### One byte -/

theorem Memory.lookup_store (m : Memory) (a x : Nat) (b : Byte) :
    (m.store a b).lookup x = if x = a then some b else m.lookup x := by
  induction m with
  | nil => simp [Memory.store, Memory.lookup]
  | cons c m ih =>
    obtain ⟨y, d⟩ := c
    simp only [Memory.store]
    split
    · simp [Memory.lookup]
    · split
      · subst y
        simp only [Memory.lookup]
        split <;> rfl
      · simp only [Memory.lookup, ih]
        split
        · subst x
          simp_all [eq_comm]
        · rfl

theorem Memory.risingFrom_mono {lo hi : Nat} {m : Memory} (h : lo ≤ hi) (hm : m.risingFrom hi = true) :
    m.risingFrom lo = true := by
  cases m with
  | nil => rfl
  | cons c m =>
    simp only [Memory.risingFrom, Bool.and_eq_true, decide_eq_true_eq] at hm ⊢
    exact ⟨le_trans h hm.1, hm.2⟩

theorem Memory.risingFrom_store {lo a : Nat} {m : Memory} (b : Byte) (h : lo ≤ a) (hm : m.risingFrom lo = true) :
    (m.store a b).risingFrom lo = true := by
  induction m generalizing lo with
  | nil => simp [Memory.store, Memory.risingFrom, h]
  | cons c m ih =>
    obtain ⟨y, d⟩ := c
    simp only [Memory.risingFrom, Bool.and_eq_true, decide_eq_true_eq] at hm
    simp only [Memory.store]
    split
    · simp only [Memory.risingFrom, Bool.and_eq_true, decide_eq_true_eq]
      exact ⟨h, by omega, hm.2⟩
    · split
      · subst y
        simp only [Memory.risingFrom, Bool.and_eq_true, decide_eq_true_eq]
        exact hm
      · simp only [Memory.risingFrom, Bool.and_eq_true, decide_eq_true_eq]
        exact ⟨hm.1, ih (by omega) hm.2⟩

theorem Memory.wf_store {m : Memory} (a : Nat) (b : Byte) (hm : m.wf = true) : (m.store a b).wf = true :=
  Memory.risingFrom_store b (Nat.zero_le a) hm

theorem Memory.below_store {n a : Nat} {m : Memory} (b : Byte) (h : a < n) (hm : m.below n = true) :
    (m.store a b).below n = true := by
  induction m with
  | nil => simp [Memory.store, Memory.below, h]
  | cons c m ih =>
    obtain ⟨y, d⟩ := c
    simp only [Memory.below, List.all_cons, Bool.and_eq_true, decide_eq_true_eq] at hm ih ⊢
    simp only [Memory.store]
    split
    · simp only [List.all_cons, Bool.and_eq_true, decide_eq_true_eq]
      exact ⟨h, hm.1, hm.2⟩
    · split
      · simp only [List.all_cons, Bool.and_eq_true, decide_eq_true_eq]
        exact ⟨h, hm.2⟩
      · simp only [List.all_cons, Bool.and_eq_true, decide_eq_true_eq]
        exact ⟨hm.1, ih hm.2⟩

/-! ### Byte sequences -/

theorem Memory.lookup_storeBytes (m : Memory) (a x : Nat) (bs : List Byte) :
    (m.storeBytes a bs).lookup x =
      if a ≤ x ∧ x < a + bs.length then bs[x - a]? else m.lookup x := by
  induction bs generalizing m a with
  | nil => simp only [Memory.storeBytes, List.length_nil]; rw [if_neg (by omega)]
  | cons b bs ih =>
    simp only [Memory.storeBytes, ih, Memory.lookup_store, List.length_cons]
    by_cases hx : x = a
    · subst x
      rw [if_neg (by omega), if_pos rfl, if_pos (by omega)]
      simp
    · rw [if_neg hx]
      by_cases hr : a + 1 ≤ x ∧ x < a + 1 + bs.length
      · rw [if_pos hr, if_pos (by omega)]
        obtain ⟨k, rfl⟩ : ∃ k, x = a + 1 + k := ⟨x - (a + 1), by omega⟩
        have h1 : a + 1 + k - (a + 1) = k := by omega
        have h2 : a + 1 + k - a = k + 1 := by omega
        rw [h1, h2, List.getElem?_cons_succ]
      · rw [if_neg hr, if_neg (by omega)]

theorem Memory.wf_storeBytes {m : Memory} (a : Nat) (bs : List Byte) (hm : m.wf = true) :
    (m.storeBytes a bs).wf = true := by
  induction bs generalizing m a with
  | nil => exact hm
  | cons b bs ih => exact ih (a + 1) (Memory.wf_store a b hm)

theorem Memory.below_storeBytes {n a : Nat} {m : Memory} {bs : List Byte} (h : a + bs.length ≤ n)
    (hm : m.below n = true) : (m.storeBytes a bs).below n = true := by
  induction bs generalizing m a with
  | nil => exact hm
  | cons b bs ih =>
    simp only [List.length_cons] at h
    exact ih (by omega) (Memory.below_store b (by omega) hm)

/-! ### The canonical form -/

theorem Memory.lookup_none_of_risingFrom {lo x : Nat} {m : Memory} (hm : m.risingFrom lo = true) (h : x < lo) :
    m.lookup x = none := by
  induction m generalizing lo with
  | nil => rfl
  | cons c m ih =>
    obtain ⟨y, d⟩ := c
    simp only [Memory.risingFrom, Bool.and_eq_true, decide_eq_true_eq] at hm
    rw [Memory.lookup, if_neg (by omega)]
    exact ih hm.2 (by omega)

theorem Memory.eq_of_risingFrom {lo : Nat} {m n : Memory} (hm : m.risingFrom lo = true)
    (hn : n.risingFrom lo = true) (h : ∀ x, m.lookup x = n.lookup x) : m = n := by
  induction m generalizing n lo with
  | nil =>
    cases n with
    | nil => rfl
    | cons c n => obtain ⟨y, d⟩ := c; simpa [Memory.lookup] using h y
  | cons c m ih =>
    obtain ⟨y, d⟩ := c
    cases n with
    | nil => simpa [Memory.lookup] using h y
    | cons c' n =>
      obtain ⟨z, e⟩ := c'
      simp only [Memory.risingFrom, Bool.and_eq_true, decide_eq_true_eq] at hm hn
      have hyz : y = z := by
        by_contra hne
        rcases Nat.lt_or_gt_of_ne hne with hlt | hgt
        · have := h y
          rw [Memory.lookup, if_pos rfl, Memory.lookup, if_neg hne,
            Memory.lookup_none_of_risingFrom hn.2 (by omega)] at this
          simp at this
        · have := h z
          rw [Memory.lookup, if_neg (by omega), Memory.lookup_none_of_risingFrom hm.2 (by omega),
            Memory.lookup, if_pos rfl] at this
          simp at this
      subst hyz
      have hde : d = e := by simpa [Memory.lookup] using h y
      subst hde
      congr 1
      refine ih hm.2 hn.2 fun x => ?_
      have hx := h x
      by_cases hxy : x = y
      · subst hxy
        rw [Memory.lookup_none_of_risingFrom hm.2 (by omega), Memory.lookup_none_of_risingFrom hn.2 (by omega)]
      · simpa [Memory.lookup, hxy] using hx

/-- Canonical memories that hold the same bytes are the same data. -/
theorem Memory.eq_of_lookup_eq {m n : Memory} (hm : m.wf = true) (hn : n.wf = true)
    (h : ∀ x, m.lookup x = n.lookup x) : m = n := Memory.eq_of_risingFrom hm hn h

/-! ### Reads of a state -/

theorem State.byteAt_congr {s t : State} (h : s.mem = t.mem) (a : Nat) : s.byteAt a = t.byteAt a := by
  simp [State.byteAt, h]

theorem State.readBytes_congr {s t : State} (h : s.mem = t.mem) (a n : Nat) : s.readBytes a n = t.readBytes a n := by
  simp [State.readBytes, State.byteAt, h]

@[simp] theorem State.readBytes_length (s : State) (a n : Nat) : (s.readBytes a n).length = n := by
  simp [State.readBytes]

theorem State.readBytes_getElem? (s : State) {a n i : Nat} (h : i < n) :
    (s.readBytes a n)[i]? = some (s.byteAt (a + i)) := by
  simp [State.readBytes, h]

theorem State.readBytes_getElem (s : State) {a n i : Nat} (h : i < (s.readBytes a n).length) :
    (s.readBytes a n)[i] = s.byteAt (a + i) := by
  simp [State.readBytes]

/-- Two reads of the same length agree when their bytes do. -/
theorem State.readBytes_eq_iff (s t : State) (a b n : Nat) :
    s.readBytes a n = t.readBytes b n ↔ ∀ i < n, s.byteAt (a + i) = t.byteAt (b + i) := by
  constructor
  · intro h i hi
    have := congrArg (·[i]?) h
    simpa [State.readBytes_getElem? _ hi] using this
  · intro h
    refine List.ext_getElem (by simp) fun i h1 _ => ?_
    simp only [State.readBytes_getElem]
    exact h i (by simpa using h1)

/-- A byte after `WriteBytes`: the written one inside, the old one outside. -/
theorem State.byteAt_writeBytes (s : State) (a x : Nat) (bs : List Byte) :
    (s.writeBytes a bs).byteAt x =
      if a ≤ x ∧ x < a + bs.length then bs[x - a]?.getD 0 else s.byteAt x := by
  unfold State.byteAt
  rw [State.writeBytes_mem, Memory.lookup_storeBytes]
  split
  · rename_i h
    have : x - a < bs.length := by omega
    simp [this]
  · rfl

theorem State.byteAt_writeBytes_inside (s : State) {a i : Nat} {bs : List Byte} (h : i < bs.length) :
    (s.writeBytes a bs).byteAt (a + i) = bs[i] := by
  rw [State.byteAt_writeBytes, if_pos (by omega)]
  simp [h]

theorem State.byteAt_writeBytes_outside (s : State) {a x : Nat} {bs : List Byte} (h : x < a ∨ a + bs.length ≤ x) :
    (s.writeBytes a bs).byteAt x = s.byteAt x := by
  rw [State.byteAt_writeBytes, if_neg (by omega)]

/-- A read after a write to the same place gives the value written. -/
theorem State.readBytes_writeBytes_same (s : State) (a : Nat) (bs : List Byte) :
    (s.writeBytes a bs).readBytes a bs.length = bs := by
  refine List.ext_getElem (by simp) fun i h1 h2 => ?_
  rw [State.readBytes_getElem, State.byteAt_writeBytes_inside s h2]

/-- A write leaves every other place alone. -/
theorem State.readBytes_writeBytes_other (s : State) {a b n : Nat} {bs : List Byte}
    (h : b + n ≤ a ∨ a + bs.length ≤ b) : (s.writeBytes a bs).readBytes b n = s.readBytes b n := by
  rw [State.readBytes_eq_iff]
  intro i hi
  exact State.byteAt_writeBytes_outside s (by omega)

@[simp] theorem freeBytes_length (k n : Nat) : (freeBytes k n).length = n := by simp [freeBytes]

/-- A scramble is a write of free bytes, as far as memory goes. -/
theorem State.byteAt_scramble (s : State) (a n x : Nat) :
    (s.scramble a n).byteAt x = (s.writeBytes a (freeBytes s.draws n)).byteAt x := rfl

theorem State.byteAt_scramble_outside (s : State) {a n x : Nat} (h : x < a ∨ a + n ≤ x) :
    (s.scramble a n).byteAt x = s.byteAt x := by
  rw [State.byteAt_scramble]
  exact State.byteAt_writeBytes_outside s (by simpa using h)

theorem State.byteAt_scramble_inside (s : State) {a n i : Nat} (h : i < n) :
    (s.scramble a n).byteAt (a + i) = Config.freeByte (s.draws + i) := by
  rw [State.byteAt_scramble, State.byteAt_writeBytes_inside s (by simpa using h)]
  simp [freeBytes]

/-- Every write of a state keeps its memory's canonical form. -/
theorem State.writeBytes_wf {s : State} (a : Nat) (bs : List Byte) (h : s.mem.wf = true) :
    (s.writeBytes a bs).mem.wf = true := Memory.wf_storeBytes a bs h

theorem State.scramble_wf {s : State} (a n : Nat) (h : s.mem.wf = true) : (s.scramble a n).mem.wf = true :=
  Memory.wf_storeBytes a _ h

theorem State.memWrite_wf {s : State} (a n v : Nat) (h : s.mem.wf = true) : (s.memWrite a n v).mem.wf = true :=
  Memory.wf_storeBytes a _ h

/-- Memory right after reset is in its canonical form. -/
theorem State.reset_wf : State.reset.mem.wf = true := rfl

end Sys2Proof.Machine
end

