-- ==== Sys2Proof/Laws/Ops.lean ====
section
/-! SUPPORT. What each shared operation of Machine/Ops.lean and of the families can do, said once: the provers cite these
instead of unfolding the operation. -/

namespace Sys2Proof.Machine

@[simp] theorem complete_eq (s : State) : complete s = .next s.advance := rfl

@[simp] theorem raise_eq (code : ErrorCode) (s : State) : raise code s = .next (s.raiseError code) := rfl

theorem requireTx_true {s : State} {k : Result} (h : s.txv = true) : requireTx s k = k := by simp [requireTx, h]

theorem requireTx_false {s : State} {k : Result} (h : s.txv = false) :
    requireTx s k = .next (s.raiseError .noSession) := by simp [requireTx, h]

theorem requireRx_true {s : State} {k : Result} (h : s.rxv = true) : requireRx s k = k := by simp [requireRx, h]

theorem requireRx_false {s : State} {k : Result} (h : s.rxv = false) :
    requireRx s k = .next (s.raiseError .noSession) := by simp [requireRx, h]

/-- A sender command that answers a next state ran its body, or took NO_SESSION. -/
theorem requireTx_next {s t : State} {k : Result} (h : requireTx s k = .next t) :
    (s.txv = true ∧ k = .next t) ∨ (s.txv = false ∧ t = s.raiseError .noSession) := by
  cases htx : s.txv
  · rw [requireTx_false htx] at h
    exact .inr ⟨rfl, by simpa using h.symm⟩
  · rw [requireTx_true htx] at h
    exact .inl ⟨rfl, h⟩

/-- A receiver command that answers a next state ran its body, or took NO_SESSION. -/
theorem requireRx_next {s t : State} {k : Result} (h : requireRx s k = .next t) :
    (s.rxv = true ∧ k = .next t) ∨ (s.rxv = false ∧ t = s.raiseError .noSession) := by
  cases hrx : s.rxv
  · rw [requireRx_false hrx] at h
    exact .inr ⟨rfl, by simpa using h.symm⟩
  · rw [requireRx_true hrx] at h
    exact .inl ⟨rfl, h⟩

theorem guardMemory_of {s : State} {rs : List Range} {k : Result} (h : ∀ q ∈ rs, s.inMemory q = true) :
    guardMemory s rs k = k := by
  rw [guardMemory, if_pos]
  simpa using h

/-- A guarded access that answers a next state touched only ranges that exist. -/
theorem guardMemory_next {s t : State} {rs : List Range} {k : Result} (h : guardMemory s rs k = .next t) :
    (∀ q ∈ rs, s.inMemory q = true) ∧ k = .next t := by
  rw [guardMemory] at h
  split at h
  · rename_i hall
    exact ⟨by simpa using hall, h⟩
  · exact absurd h (by simp)

theorem State.inMemory_iff (s : State) (q : Range) : s.inMemory q = true ↔ q.base + q.len ≤ s.memSize := by
  simp [State.inMemory]

theorem Range.overlaps_false_iff (q r : Range) :
    q.overlaps r = false ↔ q.len = 0 ∨ r.len = 0 ∨ r.base + r.len ≤ q.base ∨ q.base + q.len ≤ r.base := by
  simp only [Range.overlaps, Bool.and_eq_false_iff, decide_eq_false_iff_not]
  omega

theorem pairwiseDisjoint_iff (rs : List Range) :
    pairwiseDisjoint rs = true ↔ rs.Pairwise fun q r => q.overlaps r = false := by
  induction rs with
  | nil => simp [pairwiseDisjoint]
  | cons q rs ih => simp [pairwiseDisjoint, ih]

/-! ### The XOR kernel -/

@[simp] theorem xorw_length (a b : List Byte) : (xorw a b).length = min a.length b.length := by simp [xorw]

theorem xorw_getElem (a b : List Byte) {i : Nat} (h : i < (xorw a b).length) :
    (xorw a b)[i] = a[i]'(by simp at h; omega) ^^^ b[i]'(by simp at h; omega) := by simp [xorw]

theorem xorw_comm (a b : List Byte) : xorw a b = xorw b a := List.zipWith_comm_of_comm BitVec.xor_comm

theorem xorw_assoc {a b c : List Byte} (h1 : a.length = b.length) (h2 : b.length = c.length) :
    xorw (xorw a b) c = xorw a (xorw b c) := by
  refine List.ext_getElem (by simp [h1, h2]) fun i _ _ => ?_
  simp [xorw_getElem, BitVec.xor_assoc]

theorem xorw_self (a : List Byte) : xorw a a = List.replicate a.length 0 := by
  refine List.ext_getElem (by simp) fun i _ _ => ?_
  simp [xorw_getElem]

theorem xorw_zero (a : List Byte) : xorw a (List.replicate a.length 0) = a := by
  refine List.ext_getElem (by simp) fun i _ _ => ?_
  simp [xorw_getElem]

/-! ### The frame length under the shared updates -/

@[simp] theorem State.withTurns_frameBytes (s : State) (ts : List Turn) :
    (s.withTurns ts).frameBytes = s.frameBytes := rfl

@[simp] theorem State.writeBytes_frameBytes (s : State) (a : Nat) (bs : List Byte) :
    (s.writeBytes a bs).frameBytes = s.frameBytes := rfl

@[simp] theorem State.scramble_frameBytes (s : State) (a n : Nat) :
    (s.scramble a n).frameBytes = s.frameBytes := rfl

@[simp] theorem State.advance_frameBytes (s : State) :
    s.advance.frameBytes = s.frameBytes := rfl

@[simp] theorem State.raiseError_frameBytes (s : State) (c : ErrorCode) :
    (s.raiseError c).frameBytes = s.frameBytes := rfl

@[simp] theorem State.startRun_frameBytes (s : State) :
    s.startRun.frameBytes = s.frameBytes := rfl

@[simp] theorem State.requestCapture_frameBytes (s : State) (c : WaitingCommand) :
    (s.requestCapture c).frameBytes = s.frameBytes := rfl

@[simp] theorem State.writeDelta_frameBytes (s : State) :
    s.writeDelta.frameBytes = s.frameBytes := rfl

@[simp] theorem State.mergeInto_frameBytes (s : State) (x : List Byte) :
    (s.mergeInto x).frameBytes = s.frameBytes := rfl

@[simp] theorem State.writePayload_frameBytes (s : State) :
    s.writePayload.frameBytes = s.frameBytes := rfl

@[simp] theorem State.swapSlots_frameBytes (s : State) :
    s.swapSlots.frameBytes = s.frameBytes := rfl

@[simp] theorem State.captured_frameBytes (s : State) (req : CaptureRequest) (bs : List Byte) :
    (s.captured req bs).frameBytes = s.frameBytes := rfl

@[simp] theorem State.captureFailed_frameBytes (s : State) (req : CaptureRequest) :
    (s.captureFailed req).frameBytes = s.frameBytes := rfl

/-! ### What the families' shared steps can do -/

@[simp] theorem State.frameAt_length (s : State) (b : Word) : (s.frameAt b).length = s.frameBytes := by
  simp [State.frameAt]

@[simp] theorem zeros_length (n : Nat) : (zeros n).length = n := by simp [zeros]

@[simp] theorem le32_length (v : Word) : (le32 v).length = 4 := rfl

theorem deltaThen_next {s t : State} {k : State → Result} (h : deltaThen s k = .next t) :
    (s.inMemory s.curRange = true ∧ s.inMemory s.prevRange = true ∧ s.inMemory s.scratchRange = true) ∧
      k s.writeDelta = .next t := by
  obtain ⟨hr, hk⟩ := guardMemory_next h
  exact ⟨⟨hr _ (by simp), hr _ (by simp), hr _ (by simp)⟩, hk⟩

theorem deltaThen_of {s : State} {k : State → Result} (h1 : s.inMemory s.curRange = true)
    (h2 : s.inMemory s.prevRange = true) (h3 : s.inMemory s.scratchRange = true) :
    deltaThen s k = k s.writeDelta :=
  guardMemory_of (by simp [h1, h2, h3])

theorem mergeThen_next {s t : State} {x : List Byte} {k : State → Result} (h : mergeThen s x k = .next t) :
    s.inMemory s.reconRange = true ∧ k (s.mergeInto x) = .next t := by
  obtain ⟨hr, hk⟩ := guardMemory_next h
  exact ⟨hr _ (by simp), hk⟩

theorem mergeThen_of {s : State} {x : List Byte} {k : State → Result} (h : s.inMemory s.reconRange = true) :
    mergeThen s x k = k (s.mergeInto x) :=
  guardMemory_of (by simp [h])

/-- A compress step that answers a next state wrote a payload that fits, or took CF_OVERFLOW. -/
theorem compressThen_next {s t : State} {k : State → Result} (h : compressThen s k = .next t) :
    s.inMemory s.scratchRange = true ∧
      ((s.session.txcfCap.toNat < 4 + s.payloadBody.length ∧ t = s.raiseError .cfOverflow) ∨
        (4 + s.payloadBody.length ≤ s.session.txcfCap.toNat ∧ s.inMemory s.payloadRange = true ∧
          k s.writePayload = .next t)) := by
  obtain ⟨hr, hk⟩ := guardMemory_next h
  refine ⟨hr _ (by simp), ?_⟩
  split at hk
  · rename_i hlt
    exact .inl ⟨hlt, by simpa using hk.symm⟩
  · rename_i hge
    obtain ⟨hp, hk⟩ := guardMemory_next hk
    exact .inr ⟨by omega, hp _ (by simp), hk⟩

theorem compressThen_of {s : State} {k : State → Result} (h1 : s.inMemory s.scratchRange = true)
    (h2 : 4 + s.payloadBody.length ≤ s.session.txcfCap.toNat) (h3 : s.inMemory s.payloadRange = true) :
    compressThen s k = k s.writePayload := by
  rw [compressThen, guardMemory_of (by simp [h1]), if_neg (by omega), guardMemory_of (by simp [h3])]

theorem compressThen_overflow {s : State} {k : State → Result} (h1 : s.inMemory s.scratchRange = true)
    (h2 : s.session.txcfCap.toNat < 4 + s.payloadBody.length) :
    compressThen s k = .next (s.raiseError .cfOverflow) := by
  rw [compressThen, guardMemory_of (by simp [h1]), if_pos h2, raise_eq]

/-- A decompress step that answers a next state: a failed check of R187 with nothing written, a codec-stage failure with
scratch at any value, or scratch written and the rest run. -/
theorem decompressThen_next {s t : State} {k : List Byte → State → Result} (h : decompressThen s k = .next t) :
    (∃ e, s.payloadError = some e ∧ t = s.raiseError e) ∨
      (s.payloadError = none ∧ s.inMemory s.scratchRange = true ∧
        (((∀ r, s.codec.dec s.rxcfBody = some r → r.length ≠ s.frameBytes) ∧
            t = (s.scramble s.session.scratch.toNat s.frameBytes).raiseError .decompressionFailure) ∨
          ∃ r, s.codec.dec s.rxcfBody = some r ∧ r.length = s.frameBytes ∧
            k r (s.writeBytes s.session.scratch.toNat r) = .next t)) := by
  rw [decompressThen] at h
  split at h
  · rename_i e he
    exact .inl ⟨e, he, by simpa using h.symm⟩
  · rename_i he
    obtain ⟨hr, hk⟩ := guardMemory_next h
    refine .inr ⟨he, hr _ (by simp), ?_⟩
    split at hk
    · rename_i hd
      exact .inl ⟨by simp [hd], by simpa [decompressFailure] using hk.symm⟩
    · rename_i r hd
      split at hk
      · rename_i hl
        exact .inr ⟨r, hd, hl, hk⟩
      · rename_i hl
        refine .inl ⟨fun q hq => ?_, by simpa [decompressFailure] using hk.symm⟩
        rw [hd] at hq
        cases hq
        exact hl

theorem decompressThen_of {s : State} {k : List Byte → State → Result} {r : List Byte} (h1 : s.payloadError = none)
    (h2 : s.inMemory s.scratchRange = true) (h3 : s.codec.dec s.rxcfBody = some r) (h4 : r.length = s.frameBytes) :
    decompressThen s k = k r (s.writeBytes s.session.scratch.toNat r) := by
  rw [decompressThen, h1]
  simp only
  rw [guardMemory_of (by simp [h2]), h3]
  simp only
  rw [if_pos h4]

theorem decompressThen_check {s : State} {k : List Byte → State → Result} {e : ErrorCode}
    (h : s.payloadError = some e) : decompressThen s k = .next (s.raiseError e) := by
  rw [decompressThen, h]
  rfl

/-- A read of exactly the bytes written. -/
theorem State.readBytes_writeBytes_of_length {s : State} {a n : Nat} {bs : List Byte} (h : bs.length = n) :
    (s.writeBytes a bs).readBytes a n = bs := by
  subst h
  exact State.readBytes_writeBytes_same s a bs

/-- `MemRead` of a header written by `WriteBytes` (R11, R183). -/
theorem State.memRead_writeBytes_le32 (s : State) (a : Nat) (v : Word) (bs : List Byte) :
    (s.writeBytes a (le32 v ++ bs)).memRead a 4 = v.toNat := by
  have h : (s.writeBytes a (le32 v ++ bs)).readBytes a 4 = le32 v := by
    refine List.ext_getElem (by simp) fun i h1 h2 => ?_
    rw [State.readBytes_getElem, State.byteAt_writeBytes_inside _ (by simp at h2 ⊢; omega),
      List.getElem_append_left h2]
  rw [State.memRead, h]
  simp only [le32, leValue, BitVec.extractLsb'_toNat, Nat.shiftRight_eq_div_pow]
  have := v.isLt
  omega

theorem decompressThen_fail {s : State} {k : List Byte → State → Result} (h1 : s.payloadError = none)
    (h2 : s.inMemory s.scratchRange = true)
    (h3 : ∀ r, s.codec.dec s.rxcfBody = some r → r.length ≠ s.frameBytes) :
    decompressThen s k = decompressFailure s := by
  rw [decompressThen, h1]
  simp only
  rw [guardMemory_of (by simp [h2])]
  cases h : s.codec.dec s.rxcfBody with
  | none => rfl
  | some r => exact if_neg (h3 r h)

end Sys2Proof.Machine
end

