-- ==== Sys2Proof/Laws/Exec.lean ====
section
/-! SUPPORT. What each command can do when it answers a next state, one lemma per command: the provers cite these instead
of unfolding a meaning. -/

namespace Sys2Proof.Machine

/-! ### SETUP -/

/-- SETUP's checks raise only BUFFER_SIZE_MISMATCH and BUFFER_RANGE (R135). -/
theorem State.setupError_code {s : State} {t r : Bool} {e : ErrorCode} (h : s.setupError t r = some e) :
    e = .bufferSizeMismatch ∨ e = .bufferRange := by
  unfold State.setupError at h
  split at h
  · exact .inl (by simpa using h.symm)
  · split at h
    · exact .inl (by simpa using h.symm)
    · split at h
      · exact .inr (by simpa using h.symm)
      · split at h
        · exact .inr (by simpa using h.symm)
        · split at h
          · exact .inr (by simpa using h.symm)
          · exact absurd h (by simp)

/-- What the checks of R135 establish when none fails. -/
theorem State.setupError_none {s : State} {t r : Bool} (h : s.setupError t r = none) :
    s.regs.width.toNat ≠ 0 ∧ s.regs.height.toNat ≠ 0 ∧ s.regs.width.toNat % 2 = 0 ∧
      (t = true → 4 + s.codec.bound s.setupLen ≤ s.regs.txcfCap.toNat) ∧
      (∀ b ∈ s.setupBases t r, b.toNat % 8 = 0) ∧ (∀ q ∈ s.setupRanges t r, s.inMemory q = true) ∧
      pairwiseDisjoint (s.setupRanges t r) = true := by
  unfold State.setupError at h
  split at h
  · exact absurd h (by simp)
  · rename_i hg
    split at h
    · exact absurd h (by simp)
    · rename_i hc
      split at h
      · exact absurd h (by simp)
      · rename_i ha
        split at h
        · exact absurd h (by simp)
        · rename_i hm
          split at h
          · exact absurd h (by simp)
          · rename_i hd
            simp only [State.badGeometry, Bool.or_eq_true, beq_iff_eq, bne_iff_ne, ne_eq, not_or, not_not] at hg
            refine ⟨hg.1.1, hg.1.2, hg.2, ?_, ?_, ?_, by simpa using hd⟩
            · intro ht
              subst ht
              simpa [State.badCapacity] using hc
            · simpa using ha
            · simpa using hm

/-- SETUP (R135, R136, R139). -/
theorem execSetup_next {t r : Bool} {s u : State} (h : execSetup t r s = .next u) :
    ((t || r) = false ∧ u = s.raiseError .illegalCmd) ∨
      ((t || r) = true ∧ ∃ e, s.setupError t r = some e ∧ u = s.raiseError e) ∨
      ((t || r) = true ∧ s.setupError t r = none ∧ u = (s.setupSession t r).advance) := by
  unfold execSetup at h
  split at h
  · rename_i hn
    refine .inl ⟨?_, by simpa using h.symm⟩
    revert hn
    cases t <;> cases r <;> simp
  · rename_i hn
    have htr : (t || r) = true := by
      revert hn
      cases t <;> cases r <;> simp
    split at h
    · rename_i e he
      exact .inr (.inl ⟨htr, e, he, by simpa using h.symm⟩)
    · rename_i he
      exact .inr (.inr ⟨htr, he, by simpa using h.symm⟩)

theorem execSetup_of {t r : Bool} {s : State} (htr : (t || r) = true) (h : s.setupError t r = none) :
    execSetup t r s = .next (s.setupSession t r).advance := by
  rw [execSetup, if_neg (by revert htr; cases t <;> cases r <;> simp), h]
  rfl

theorem execSetup_error {t r : Bool} {s : State} {e : ErrorCode} (htr : (t || r) = true)
    (h : s.setupError t r = some e) : execSetup t r s = .next (s.raiseError e) := by
  rw [execSetup, if_neg (by revert htr; cases t <;> cases r <;> simp), h]
  rfl

/-! ### The payload checks -/

/-- The checks of R187 raise four codes. -/
theorem State.payloadError_code {s : State} {e : ErrorCode} (h : s.payloadError = some e) :
    e = .noSession ∧ s.rxv = false ∨ s.rxv = true ∧ (e = .bufferRange ∨ e = .decompressionFailure ∨ e = .noPayload) := by
  unfold State.payloadError at h
  cases hr : s.rxv
  · simp [hr] at h
    exact .inl ⟨h.symm, rfl⟩
  · simp only [hr, Bool.not_true, Bool.false_eq_true, if_false] at h
    refine .inr ⟨rfl, ?_⟩
    repeat' split at h
    all_goals cases e <;> simp_all

/-- What the checks of R187 establish when none fails. -/
theorem State.payloadError_none {s : State} (h : s.payloadError = none) :
    s.rxv = true ∧ s.inMemory s.rxcfRange = true ∧ s.rxcfRange.overlaps s.scratchRange = false ∧
      s.rxcfRange.overlaps s.reconRange = false ∧ 4 < s.regs.rxcfSize.toNat ∧
      s.memRead s.regs.rxcfBase.toNat 4 = s.frameBytes := by
  unfold State.payloadError at h
  split at h
  · exact absurd h (by simp)
  · rename_i hr
    split at h
    · exact absurd h (by simp)
    · rename_i hm
      split at h
      · exact absurd h (by simp)
      · rename_i ho
        split at h
        · exact absurd h (by simp)
        · rename_i h4
          split at h
          · exact absurd h (by simp)
          · rename_i h5
            split at h
            · exact absurd h (by simp)
            · rename_i hh
              simp only [Bool.or_eq_true, not_or, Bool.not_eq_true] at ho
              exact ⟨by simpa using hr, by simpa using hm, ho.1, ho.2, by omega, by simpa using hh⟩

/-- The converse: these facts are all that the checks of R187 ask. -/
theorem State.payloadError_none_of {s : State} (h1 : s.rxv = true) (h2 : s.inMemory s.rxcfRange = true)
    (h3 : s.rxcfRange.overlaps s.scratchRange = false) (h4 : s.rxcfRange.overlaps s.reconRange = false)
    (h5 : 4 < s.regs.rxcfSize.toNat) (h6 : s.memRead s.regs.rxcfBase.toNat 4 = s.frameBytes) :
    s.payloadError = none := by
  unfold State.payloadError
  rw [if_neg (by simp [h1]), if_neg (by simp [h2]), if_neg (by simp [h3, h4]), if_neg (by omega), if_neg (by omega),
    if_neg (by simp [h6])]

/-! ### The other commands -/

/-- CAPTURE's request step (R152). -/
theorem execCapture_next {s u : State} (h : execCapture s = .next u) :
    (s.txv = true ∧ u = s.requestCapture .capture) ∨ (s.txv = false ∧ u = s.raiseError .noSession) := by
  rcases requireTx_next h with ⟨ht, hk⟩ | hn
  · exact .inl ⟨ht, by simpa using hk.symm⟩
  · exact .inr hn

/-- ITERATE's request step (R201). -/
theorem execIterate_next {s u : State} (h : execIterate s = .next u) :
    (s.txv = true ∧ u = s.requestCapture .iterate) ∨ (s.txv = false ∧ u = s.raiseError .noSession) := by
  rcases requireTx_next h with ⟨ht, hk⟩ | hn
  · exact .inl ⟨ht, by simpa using hk.symm⟩
  · exact .inr hn

/-- DIFF (R161). -/
theorem execDiff_next {s u : State} (h : execDiff s = .next u) :
    (s.txv = true ∧ s.inMemory s.curRange = true ∧ s.inMemory s.prevRange = true ∧
        s.inMemory s.scratchRange = true ∧ u = s.writeDelta.advance) ∨
      (s.txv = false ∧ u = s.raiseError .noSession) := by
  rcases requireTx_next h with ⟨ht, hk⟩ | hn
  · obtain ⟨⟨h1, h2, h3⟩, hk⟩ := deltaThen_next hk
    exact .inl ⟨ht, h1, h2, h3, by simpa using hk.symm⟩
  · exact .inr hn

/-- MERGE (R164). -/
theorem execMerge_next {s u : State} (h : execMerge s = .next u) :
    (s.rxv = true ∧ s.inMemory s.scratchRange = true ∧ s.inMemory s.reconRange = true ∧
        u = (s.mergeInto (s.frameAt s.session.scratch)).advance) ∨
      (s.rxv = false ∧ u = s.raiseError .noSession) := by
  rcases requireRx_next h with ⟨ht, hk⟩ | hn
  · obtain ⟨h1, hk⟩ := guardMemory_next hk
    obtain ⟨h2, hk⟩ := mergeThen_next hk
    exact .inl ⟨ht, h1 _ (by simp), h2, by simpa using hk.symm⟩
  · exact .inr hn

/-- COMPRESS (R185, R191). -/
theorem execCompress_next {s u : State} (h : execCompress s = .next u) :
    (s.txv = true ∧ s.inMemory s.scratchRange = true ∧
        ((s.session.txcfCap.toNat < 4 + s.payloadBody.length ∧ u = s.raiseError .cfOverflow) ∨
          (4 + s.payloadBody.length ≤ s.session.txcfCap.toNat ∧ s.inMemory s.payloadRange = true ∧
            u = s.writePayload.advance))) ∨
      (s.txv = false ∧ u = s.raiseError .noSession) := by
  rcases requireTx_next h with ⟨ht, hk⟩ | hn
  · obtain ⟨h1, ho | ⟨hf, hp, hk⟩⟩ := compressThen_next hk
    · exact .inl ⟨ht, h1, .inl ho⟩
    · exact .inl ⟨ht, h1, .inr ⟨hf, hp, by simpa using hk.symm⟩⟩
  · exact .inr hn

/-- SWAP (R200). -/
theorem execSwap_next {s u : State} (h : execSwap s = .next u) :
    (s.txv = true ∧ u = s.swapSlots.advance) ∨ (s.txv = false ∧ u = s.raiseError .noSession) := by
  rcases requireTx_next h with ⟨ht, hk⟩ | hn
  · exact .inl ⟨ht, by simpa using hk.symm⟩
  · exact .inr hn

/-- DECOMPRESS (R188, R189). -/
theorem execDecompress_next {s u : State} (h : execDecompress s = .next u) :
    (∃ e, s.payloadError = some e ∧ u = s.raiseError e) ∨
      (s.payloadError = none ∧ s.inMemory s.scratchRange = true ∧
        (((∀ r, s.codec.dec s.rxcfBody = some r → r.length ≠ s.frameBytes) ∧
            u = (s.scramble s.session.scratch.toNat s.frameBytes).raiseError .decompressionFailure) ∨
          ∃ r, s.codec.dec s.rxcfBody = some r ∧ r.length = s.frameBytes ∧
            u = (s.writeBytes s.session.scratch.toNat r).advance)) := by
  rcases decompressThen_next h with hc | ⟨hn, hs, hf | ⟨r, hd, hl, hk⟩⟩
  · exact .inl hc
  · exact .inr ⟨hn, hs, .inl hf⟩
  · exact .inr ⟨hn, hs, .inr ⟨r, hd, hl, by simpa using hk.symm⟩⟩

/-- RECEIVE (R220). -/
theorem execReceive_next {s u : State} (h : execReceive s = .next u) :
    (∃ e, s.payloadError = some e ∧ u = s.raiseError e) ∨
      (s.payloadError = none ∧ s.inMemory s.scratchRange = true ∧
        (((∀ r, s.codec.dec s.rxcfBody = some r → r.length ≠ s.frameBytes) ∧
            u = (s.scramble s.session.scratch.toNat s.frameBytes).raiseError .decompressionFailure) ∨
          ∃ r, s.codec.dec s.rxcfBody = some r ∧ r.length = s.frameBytes ∧ s.inMemory s.reconRange = true ∧
            u = ((s.writeBytes s.session.scratch.toNat r).mergeInto r).advance)) := by
  rcases decompressThen_next h with hc | ⟨hn, hs, hf | ⟨r, hd, hl, hk⟩⟩
  · exact .inl hc
  · exact .inr ⟨hn, hs, .inl hf⟩
  · obtain ⟨hr, hk⟩ := mergeThen_next hk
    exact .inr ⟨hn, hs, .inr ⟨r, hd, hl, hr, by simpa using hk.symm⟩⟩

/-- ITERATE's steps 2 to 4 (R201). -/
theorem finishIterate_next {s u : State} (h : finishIterate s = .next u) :
    s.inMemory s.curRange = true ∧ s.inMemory s.prevRange = true ∧ s.inMemory s.scratchRange = true ∧
      ((s.session.txcfCap.toNat < 4 + s.writeDelta.payloadBody.length ∧ u = s.writeDelta.raiseError .cfOverflow) ∨
        (4 + s.writeDelta.payloadBody.length ≤ s.session.txcfCap.toNat ∧
          s.writeDelta.inMemory s.writeDelta.payloadRange = true ∧
          u = s.writeDelta.writePayload.swapSlots.advance)) := by
  obtain ⟨⟨h1, h2, h3⟩, hk⟩ := deltaThen_next h
  obtain ⟨-, ho | ⟨hf, hp, hk⟩⟩ := compressThen_next hk
  · exact ⟨h1, h2, h3, .inl ho⟩
  · exact ⟨h1, h2, h3, .inr ⟨hf, hp, by simpa using hk.symm⟩⟩

/-- The answer to a request (R151). -/
theorem answerRequest_next {req : CaptureRequest} {answer : CaptureAnswer} {s u : State}
    (h : answerRequest req answer s = .next u) :
    req.base.toNat + req.len.toNat ≤ s.memSize ∧
      ((answer = .fail ∧ u = (s.captureFailed req).raiseError .captureFailure) ∨
        ∃ bytes, answer = .ok bytes ∧ bytes.length = req.len.toNat ∧
          ((req.command = .capture ∧ u = (s.captured req bytes).advance) ∨
            (req.command = .iterate ∧ finishIterate (s.captured req bytes) = .next u))) := by
  obtain ⟨hm, hk⟩ := guardMemory_next h
  refine ⟨by simpa [State.inMemory] using hm, ?_⟩
  cases answer with
  | fail => exact .inl ⟨rfl, by simpa using hk.symm⟩
  | ok bytes =>
    simp only at hk
    split at hk
    · rename_i hl
      refine .inr ⟨bytes, rfl, hl, ?_⟩
      unfold resumeCommand at hk
      cases hc : req.command with
      | capture => rw [hc] at hk; exact .inl ⟨rfl, by simpa using hk.symm⟩
      | iterate => rw [hc] at hk; exact .inr ⟨rfl, hk⟩
    · exact absurd hk (by simp)

end Sys2Proof.Machine
end

