-- ==== Sys2Proof/Laws/Step.lean ====
section
/-! SUPPORT. What a step can do, said once: the turns, the engine step, the fetch, and a host write to the block. -/

namespace Sys2Proof.Machine

@[simp] theorem State.fetch_withTurns (s : State) (ts : List Turn) : (s.withTurns ts).fetch = s.fetch := rfl

@[simp] theorem State.byteAt_withTurns (s : State) (ts : List Turn) (a : Nat) : (s.withTurns ts).byteAt a = s.byteAt a :=
  rfl

@[simp] theorem State.busy_withTurns (s : State) (ts : List Turn) : (s.withTurns ts).busy = s.busy := rfl

theorem State.busy_eq_false_iff (s : State) : s.busy = false ↔ s.phase = .idle := by
  unfold State.busy
  cases s.phase <;> simp

/-- A fetch or a decode raises only CMD_FETCH_FAULT and ILLEGAL_CMD (R101, R102). -/
theorem State.fetch_error {s : State} {e : ErrorCode} (h : s.fetch = .error e) : e = .cmdFetchFault ∨ e = .illegalCmd := by
  unfold State.fetch at h
  split at h
  · split at h
    · exact absurd h (by simp)
    · exact .inr (by simpa using h.symm)
  · exact .inl (by simpa using h.symm)

/-- One engine step (R131): outside phase RUN nothing; in RUN the command at CPC, or the error of its fetch. -/
theorem engineStep_next {s u : State} (h : engineStep s = .next u) :
    (s.phase ≠ .run ∧ u = s) ∨
      (s.phase = .run ∧ ((∃ i, s.fetch = .ok i ∧ exec i s = .next u) ∨ ∃ e, s.fetch = .error e ∧ u = s.raiseError e)) := by
  unfold engineStep at h
  split at h
  · rename_i hp
    refine .inr ⟨hp, ?_⟩
    split at h
    · rename_i i hi
      exact .inl ⟨i, hi, h⟩
    · rename_i e he
      exact .inr ⟨e, he, by simpa using h.symm⟩
  · rename_i hp
    exact .inl ⟨by simp [hp], by simpa using h.symm⟩
  · rename_i hp
    exact .inl ⟨by simp [hp], by simpa using h.symm⟩

/-- The engine's turn, or no turn to come, is an engine step (R131; entry 6). -/
theorem step_engine {s : State} {rest : List Turn} (h : s.turns = .engine :: rest ∨ (s.turns = [] ∧ rest = [])) :
    step s = engineStep (s.withTurns rest) := by
  rcases h with h | ⟨h, rfl⟩
  · simp only [step, nextTurn, h, takeTurn]
  · have hs : s.withTurns [] = s := by rw [State.withTurns, ← h]
    simp only [step, nextTurn, h, hs]

/-- An answer turn while waiting goes to the outstanding request (R151). -/
theorem step_answer {s : State} {req : CaptureRequest} {answer : CaptureAnswer} {rest : List Turn}
    (hp : s.phase = .waitCapture req) (ht : s.turns = .captureAnswer answer :: rest) :
    step s = answerRequest req answer (s.withTurns rest) := by
  simp only [step, nextTurn, ht, takeTurn, answerCapture, State.withTurns_phase, hp]

/-- An `ok` answer of the requested length lets the command go on (R151). -/
theorem answerRequest_ok {req : CaptureRequest} {bytes : List Byte} {s : State}
    (hm : req.base.toNat + req.len.toNat ≤ s.memSize) (hl : bytes.length = req.len.toNat) :
    answerRequest req (.ok bytes) s = resumeCommand req.command (s.captured req bytes) := by
  rw [answerRequest, guardMemory_of (by simpa [State.inMemory] using hm)]
  exact if_pos hl

/-- A `fail` answer is CAPTURE_FAILURE (R151, R154). -/
theorem answerRequest_fail {req : CaptureRequest} {s : State} (hm : req.base.toNat + req.len.toNat ≤ s.memSize) :
    answerRequest req .fail s = .next ((s.captureFailed req).raiseError .captureFailure) := by
  rw [answerRequest, guardMemory_of (by simpa [State.inMemory] using hm)]
  rfl

/-- The capture agent's turn (R151, R281). -/
theorem answerCapture_next {answer : CaptureAnswer} {s u : State} (h : answerCapture answer s = .next u) :
    (∃ req, s.phase = .waitCapture req ∧ answerRequest req answer s = .next u) ∨
      ((∀ req, s.phase ≠ .waitCapture req) ∧ u = s) := by
  unfold answerCapture at h
  split at h
  · rename_i req hp
    exact .inl ⟨req, hp, h⟩
  · rename_i hp
    exact .inr ⟨by simp [hp], by simpa using h.symm⟩
  · rename_i hp
    exact .inr ⟨by simp [hp], by simpa using h.symm⟩

/-- A host access to memory that answers a next state (R73, R83). -/
theorem hostMemory_next {s u : State} {addr : Word} {k : Result} (h : hostMemory s addr k = .next u) :
    s.busy = false ∧ addr.toNat < s.memSize ∧ k = .next u := by
  unfold hostMemory at h
  split at h
  · exact absurd h (by simp)
  · rename_i hb
    obtain ⟨hm, hk⟩ := guardMemory_next h
    have := (s.inMemory_iff ⟨addr.toNat, 1⟩).1 (hm _ (by simp))
    exact ⟨by simpa using hb, this, hk⟩

/-- What a write to the register block can do (R33 to R49, R53). -/
theorem State.writeReg_cases (s : State) (offset : BitVec 8) (size : AccessSize) (v : Word) :
    s.writeReg offset size v = s ∨
      (s.busy = true ∧ s.writeReg offset size v = s.ignoreWrite) ∨
      (s.busy = false ∧ offset = 0x00 ∧ size = .word ∧ v.getLsbD 0 = true ∧ s.writeReg offset size v = s.startRun) ∨
      (offset = 0x04 ∧ size = .word ∧ s.writeReg offset size v = s.writeStatus v) ∨
      (offset = 0x08 ∧ size = .word ∧ s.writeReg offset size v = s.writeIrqEn v) ∨
      (s.busy = false ∧ s.writeReg offset size v = { s with cpc := v }) ∨
      (s.busy = false ∧ ∃ regs, s.writeReg offset size v = { s with regs := regs }) := by
  have hoff : ∀ g, registerAt offset = some g → (g = .ctrl → offset = 0x00) ∧ (g = .status → offset = 0x04) ∧
      (g = .irqEn → offset = 0x08) := by
    revert offset
    decide
  have hidle : ∀ w : State, s.writeIdle w = if s.busy = true then s.ignoreWrite else w := fun w => rfl
  unfold State.writeReg
  split
  · rename_i hfull
    have hsize : size = .word := by
      simp only [fullAccess, Bool.and_eq_true, decide_eq_true_eq] at hfull
      exact hfull.1
    split
    · rename_i g hg
      have h3 := hoff g hg
      cases g <;> simp only [State.writeRegister, State.writeCtrl, hidle] <;> cases hb : s.busy <;>
        cases hv : v.getLsbD 0 <;> simp_all
    · exact .inl rfl
  · exact .inl rfl

/-- One step: whose turn it was and what it did (R14, R298). -/
theorem step_next {s u : State} (h : step s = .next u) :
    ∃ rest,
      ((s.turns = .engine :: rest ∨ (s.turns = [] ∧ rest = [])) ∧ engineStep (s.withTurns rest) = .next u) ∨
      (∃ offset size v, s.turns = .hostWrite offset size v :: rest ∧
        u = (s.withTurns rest).writeReg offset size v) ∨
      (((∃ offset size, s.turns = .hostRead offset size :: rest) ∨ (∃ a, s.turns = .lateAnswer a :: rest) ∨
        ∃ addr, s.turns = .hostLoad addr :: rest) ∧ u = s.withTurns rest) ∨
      (∃ addr b, s.turns = .hostStore addr b :: rest ∧ s.busy = false ∧ addr.toNat < s.memSize ∧
        u = (s.withTurns rest).writeBytes addr.toNat [b]) ∨
      (∃ a, s.turns = .captureAnswer a :: rest ∧ answerCapture a (s.withTurns rest) = .next u) ∨
      (s.turns = .reset :: rest ∧ u = (s.withTurns rest).takeReset) := by
  unfold step nextTurn at h
  split at h
  · rename_i ht
    refine ⟨[], .inl ⟨.inr ⟨ht, rfl⟩, ?_⟩⟩
    have : s.withTurns [] = s := by rw [State.withTurns, ← ht]
    rw [this]
    exact h
  · rename_i t rest ht
    refine ⟨rest, ?_⟩
    cases t with
    | engine => exact .inl ⟨.inl ht, h⟩
    | hostWrite o z v => exact .inr (.inl ⟨o, z, v, ht, by simpa [takeTurn] using h.symm⟩)
    | hostRead o z => exact .inr (.inr (.inl ⟨.inl ⟨o, z, ht⟩, by simpa [takeTurn] using h.symm⟩))
    | hostStore a b =>
      obtain ⟨h1, h2, h3⟩ := hostMemory_next h
      exact .inr (.inr (.inr (.inl ⟨a, b, ht, h1, h2, by simpa using h3.symm⟩)))
    | hostLoad a =>
      obtain ⟨-, -, h3⟩ := hostMemory_next h
      exact .inr (.inr (.inl ⟨.inr (.inr ⟨a, ht⟩), by simpa using h3.symm⟩))
    | captureAnswer a => exact .inr (.inr (.inr (.inr (.inl ⟨a, ht, h⟩))))
    | lateAnswer a => exact .inr (.inr (.inl ⟨.inr (.inl ⟨a, ht⟩), by simpa [takeTurn] using h.symm⟩))
    | reset => exact .inr (.inr (.inr (.inr (.inr ⟨ht, by simpa [takeTurn] using h.symm⟩))))

end Sys2Proof.Machine
end

