-- ==== Sys2Proof/Laws/Decode.lean ====
section
/-! SUPPORT. The bytes of a word and their reading back, what `plainCommand` answers, and the fetch in terms of the word at
CPC. -/

namespace Sys2Proof

/-- The four bytes of a word, put together again. -/
theorem word_of_bytes (w : Word) :
    (w.extractLsb' 24 8 ++ w.extractLsb' 16 8 ++ w.extractLsb' 8 8 ++ w.extractLsb' 0 8 : BitVec 32) = w := by
  apply BitVec.eq_of_getLsbD_eq
  intro i hi
  simp only [BitVec.getLsbD_append, BitVec.getLsbD_extractLsb']
  split
  · simp [*]
  · split
    · rw [show 8 + (i - 8) = i by omega]
      simp [*]
    · split
      · rw [show 16 + (i - 8 - 8) = i by omega]
        simp [*]
      · rw [show 24 + (i - 8 - 8 - 8) = i by omega]
        simp
        omega

/-- A word is its upper 24 bits and its opcode. -/
theorem word_of_opcode (w : Word) : (w.extractLsb' 8 24 ++ w.extractLsb' 0 8 : BitVec 32) = w := by
  apply BitVec.eq_of_getLsbD_eq
  intro i hi
  simp only [BitVec.getLsbD_append, BitVec.getLsbD_extractLsb']
  split
  · simp [*]
  · rw [show 8 + (i - 8) = i by omega]
    simp
    omega

/-- Decoding a stored word is decoding the word. -/
theorem decode_le32 (w : Word) (rest : List Byte) :
    decode (le32 w ++ rest) = (match decodeWord w with | .ok i => .ok (i, rest) | .error e => .error e) := by
  simp only [le32, List.cons_append, List.nil_append, decode]
  cases h : decodeWord w <;> simp only [word_of_bytes, h]

/-- A plain command has the opcode it was read from, and no operand bits. -/
theorem plainCommand_some {op : BitVec 8} {i : Instr} (h : plainCommand op = some i) :
    i.opcode = op ∧ i.bitT = false ∧ i.bitR = false ∧ i.wellFormed = true ∧ op ≠ setupOpcode := by
  have key : ∀ op : BitVec 8, ∀ i ∈ plainCommand op,
      i.opcode = op ∧ i.bitT = false ∧ i.bitR = false ∧ i.wellFormed = true ∧ op ≠ setupOpcode := by decide +kernel
  exact key op i h

namespace Machine

/-- Decoding four bytes of memory is decoding the word that `MemRead` gives. -/
theorem State.decode_readBytes (s : State) (a : Nat) :
    decode (s.readBytes a 4) =
      (match decodeWord (BitVec.ofNat 32 (s.memRead a 4)) with | .ok i => .ok (i, []) | .error e => .error e) := by
  have h : s.readBytes a 4 = [s.byteAt a, s.byteAt (a + 1), s.byteAt (a + 2), s.byteAt (a + 3)] := by
    simp [State.readBytes, List.range_succ]
  have h2 : BitVec.ofNat 32 (s.memRead a 4) =
      s.byteAt (a + 3) ++ s.byteAt (a + 2) ++ s.byteAt (a + 1) ++ s.byteAt a := by
    apply BitVec.eq_of_toNat_eq
    simp only [State.memRead, h, leValue, BitVec.toNat_ofNat, BitVec.toNat_append]
    have h0 := (s.byteAt a).isLt
    have h1 := (s.byteAt (a + 1)).isLt
    have h2 := (s.byteAt (a + 2)).isLt
    have h3 := (s.byteAt (a + 3)).isLt
    rw [← Nat.shiftLeft_add_eq_or_of_lt h2, ← Nat.shiftLeft_add_eq_or_of_lt h1, ← Nat.shiftLeft_add_eq_or_of_lt h0]
    simp only [Nat.shiftLeft_eq]
    omega
  rw [h, h2]
  rfl

/-- The fetch at a fetchable CPC, in terms of the word there (R101, R102). -/
theorem State.fetch_of {s : State} (h1 : s.cpc.toNat % 4 = 0) (h2 : s.cpc.toNat + 4 ≤ s.memSize) :
    s.fetch = (match decodeWord (BitVec.ofNat 32 (s.memRead s.cpc.toNat 4)) with
      | .ok i => .ok i
      | .error _ => .error .illegalCmd) := by
  rw [State.fetch, if_pos (by simp [State.fetchOk, h1, h2]), State.fetchBytes, State.decode_readBytes]
  cases decodeWord (BitVec.ofNat 32 (s.memRead s.cpc.toNat 4)) <;> rfl

/-- The fetch at any other CPC is CMD_FETCH_FAULT (R101). -/
theorem State.fetch_bad {s : State} (h : s.cpc.toNat % 4 ≠ 0 ∨ s.cpc.toNat + 4 > s.memSize) :
    s.fetch = .error .cmdFetchFault := by
  rw [State.fetch, if_neg]
  simp only [State.fetchOk, Bool.and_eq_true, beq_iff_eq, decide_eq_true_eq]
  omega

end Machine

end Sys2Proof
end

