-- ==== Sys2Proof/Laws/Flags.lean ====
section
/-! SUPPORT. The fields of the STATUS and IRQ_EN words where R34 and R36 put them. -/

namespace Sys2Proof.Machine

variable (s : State)

theorem State.statusWord_busy : s.statusWord.getLsbD 0 = s.busy := by
  simp only [State.statusWord, BitVec.getLsbD_append]; simp

theorem State.statusWord_done : s.statusWord.getLsbD 1 = s.done := by
  simp only [State.statusWord, BitVec.getLsbD_append]; simp

theorem State.statusWord_err : s.statusWord.getLsbD 2 = s.err := by
  simp only [State.statusWord, BitVec.getLsbD_append]; simp

theorem State.statusWord_wign : s.statusWord.getLsbD 3 = s.wign := by
  simp only [State.statusWord, BitVec.getLsbD_append]; simp

theorem State.statusWord_txv : s.statusWord.getLsbD 4 = s.txv := by
  simp only [State.statusWord, BitVec.getLsbD_append]; simp

theorem State.statusWord_rxv : s.statusWord.getLsbD 5 = s.rxv := by
  simp only [State.statusWord, BitVec.getLsbD_append]; simp

theorem State.statusWord_prevSel : s.statusWord.getLsbD 6 = s.prevSel := by
  simp only [State.statusWord, BitVec.getLsbD_append]; simp

theorem State.statusWord_reserved7 : s.statusWord.getLsbD 7 = false := by
  simp only [State.statusWord, BitVec.getLsbD_append]; simp

theorem State.statusWord_errCode : s.statusWord.extractLsb' 8 8 = s.errCode.toBits := by
  apply BitVec.eq_of_getLsbD_eq
  intro i hi
  simp only [State.statusWord, BitVec.getLsbD_append, BitVec.getLsbD_extractLsb', hi, decide_true, Bool.true_and]
  repeat rw [if_neg (by omega)]
  rw [if_pos (by omega)]
  congr 1
  omega

theorem State.statusWord_reserved16 : s.statusWord.extractLsb' 16 16 = 0 := by
  apply BitVec.eq_of_getLsbD_eq
  intro i hi
  simp only [State.statusWord, BitVec.getLsbD_append, BitVec.getLsbD_extractLsb']
  repeat rw [if_neg (by omega)]
  simp

/-- Only ERRCODE 0 stands for no error (R240). -/
theorem ErrorCode.toBits_eq_zero_iff (e : ErrorCode) : e.toBits = 0 ↔ e = .noError := by
  cases e <;> decide

theorem State.irqEnWord_doneIe : s.irqEnWord.getLsbD 1 = s.doneIe := by
  simp only [State.irqEnWord, BitVec.getLsbD_append]; simp

theorem State.irqEnWord_errIe : s.irqEnWord.getLsbD 2 = s.errIe := by
  simp only [State.irqEnWord, BitVec.getLsbD_append]; simp

/-- The bits of IRQ_EN that R36 reserves read 0. -/
theorem State.irqEnWord_reserved : s.irqEnWord &&& 0xFFFFFFF9 = 0 := by
  unfold State.irqEnWord
  cases s.doneIe <;> cases s.errIe <;> decide

/-- A write to IRQ_EN reads back in bits 1 and 2 (R36). -/
theorem State.irqEnWord_writeIrqEn (v : Word) : (s.writeIrqEn v).irqEnWord = v &&& 6 := by
  apply BitVec.eq_of_getLsbD_eq
  intro i hi
  simp only [State.irqEnWord, BitVec.getLsbD_append, State.writeIrqEn]
  have hcase : i = 0 ∨ i = 1 ∨ i = 2 ∨ 3 ≤ i := by omega
  rcases hcase with rfl | rfl | rfl | h
  · simp
  · simp
  · simp
  · have key : ∀ i : Fin 32, 3 ≤ i.val → (6#32).getLsbD i.val = false := by decide
    have h6 := key ⟨i, hi⟩ h
    simp only at h6
    rw [if_neg (by omega), if_neg (by omega), if_neg (by omega), BitVec.getLsbD_and,
      show (6 : BitVec 32) = 6#32 from rfl, h6]
    simp

end Sys2Proof.Machine
end

