-- ==== Sys2Proof/Laws/Effect.lean ====
section
/-! SUPPORT. The shapes that a command, a capture answer and an engine step can leave, memory apart: one case analysis for
every whole-machine rule about the other fields. -/

namespace Sys2Proof.Machine

/-- What a command leaves, as far as it shows outside memory. -/
inductive CommandEffect (s : State) : Instr → State → Prop
  | halt : CommandEffect s .halt { s.advance with phase := .idle, done := true }
  | setup (t r : Bool) (h : (t || r) = true) (hn : s.setupError t r = none) :
      CommandEffect s (.setup t r) (s.setupSession t r).advance
  | done (i : Instr) (u : State) (m : Memory) (d : Nat) (p : Bool) (z : Word)
      (hu : u = { s with cpc := s.cpc + 4, mem := m, prevSel := p, txcfSize := z, draws := d })
      (hi : i ≠ .halt ∧ i ≠ .capture ∧ i ≠ .iterate ∧ ∀ t r, i ≠ .setup t r)
      (hp : p = s.prevSel ∨ (i = .swap ∧ p = !s.prevSel)) (hz : z = s.txcfSize ∨ i = .compress) : CommandEffect s i u
  | error (i : Instr) (e : ErrorCode) (m : Memory) (d : Nat) (he : e ≠ .noError) :
      CommandEffect s i { s with phase := .idle, err := true, errCode := e, mem := m, draws := d }
  | wait (i : Instr) (c : WaitingCommand) (hi : i = .capture ∧ c = .capture ∨ i = .iterate ∧ c = .iterate)
      (ht : s.txv = true) : CommandEffect s i (s.requestCapture c)

theorem CommandEffect.raised {s : State} {i : Instr} {e : ErrorCode} (he : e ≠ .noError) :
    CommandEffect s i (s.raiseError e) := .error i e s.mem s.draws he

theorem State.setupError_ne {s : State} {t r : Bool} {e : ErrorCode} (h : s.setupError t r = some e) : e ≠ .noError := by
  rcases State.setupError_code h with rfl | rfl <;> simp

theorem State.payloadError_ne {s : State} {e : ErrorCode} (h : s.payloadError = some e) : e ≠ .noError := by
  rcases State.payloadError_code h with ⟨rfl, _⟩ | ⟨_, rfl | rfl | rfl⟩ <;> simp

/-- Every command that answers a next state leaves one of these shapes. -/
theorem exec_effect {i : Instr} {s u : State} (h : exec i s = .next u) : CommandEffect s i u := by
  cases i with
  | halt =>
    obtain rfl : u = { s.advance with phase := .idle, done := true } := by simpa [exec, execHalt] using h.symm
    exact .halt
  | nop =>
    obtain rfl : u = s.advance := by simpa [exec, execNop] using h.symm
    exact .done _ _ s.mem s.draws s.prevSel s.txcfSize rfl (by simp) (.inl rfl) (.inl rfl)
  | setup t r =>
    rcases execSetup_next h with ⟨_, rfl⟩ | ⟨_, e, he, rfl⟩ | ⟨htr, hn, rfl⟩
    · exact .raised (by simp)
    · exact .raised (State.setupError_ne he)
    · exact .setup t r htr hn
  | capture =>
    rcases execCapture_next h with ⟨ht, rfl⟩ | ⟨_, rfl⟩
    · exact .wait _ _ (.inl ⟨rfl, rfl⟩) ht
    · exact .raised (by simp)
  | iterate =>
    rcases execIterate_next h with ⟨ht, rfl⟩ | ⟨_, rfl⟩
    · exact .wait _ _ (.inr ⟨rfl, rfl⟩) ht
    · exact .raised (by simp)
  | diff =>
    rcases execDiff_next h with ⟨_, _, _, _, rfl⟩ | ⟨_, rfl⟩
    · exact .done _ _ _ s.draws s.prevSel s.txcfSize rfl (by simp) (.inl rfl) (.inl rfl)
    · exact .raised (by simp)
  | merge =>
    rcases execMerge_next h with ⟨_, _, _, rfl⟩ | ⟨_, rfl⟩
    · exact .done _ _ _ s.draws s.prevSel s.txcfSize rfl (by simp) (.inl rfl) (.inl rfl)
    · exact .raised (by simp)
  | compress =>
    rcases execCompress_next h with ⟨_, _, ⟨_, rfl⟩ | ⟨_, _, rfl⟩⟩ | ⟨_, rfl⟩
    · exact .raised (by simp)
    · exact .done _ _ _ s.draws s.prevSel _ rfl (by simp) (.inl rfl) (.inr rfl)
    · exact .raised (by simp)
  | swap =>
    rcases execSwap_next h with ⟨_, rfl⟩ | ⟨_, rfl⟩
    · exact .done _ _ _ s.draws _ s.txcfSize rfl (by simp) (.inr ⟨rfl, rfl⟩) (.inl rfl)
    · exact .raised (by simp)
  | decompress =>
    rcases execDecompress_next h with ⟨e, he, rfl⟩ | ⟨_, _, ⟨_, rfl⟩ | ⟨r, _, _, rfl⟩⟩
    · exact .raised (State.payloadError_ne he)
    · exact .error _ .decompressionFailure _ _ (by simp)
    · exact .done _ _ _ s.draws s.prevSel s.txcfSize rfl (by simp) (.inl rfl) (.inl rfl)
  | receive =>
    rcases execReceive_next h with ⟨e, he, rfl⟩ | ⟨_, _, ⟨_, rfl⟩ | ⟨r, _, _, _, rfl⟩⟩
    · exact .raised (State.payloadError_ne he)
    · exact .error _ .decompressionFailure _ _ (by simp)
    · exact .done _ _ _ s.draws s.prevSel s.txcfSize rfl (by simp) (.inl rfl) (.inl rfl)

/-- What the capture agent's answer leaves, as far as it shows outside memory. -/
inductive AnswerEffect (s : State) (req : CaptureRequest) : State → Prop
  | done (m : Memory) (z : Word) (p : Bool)
      (hp : (p = s.prevSel ∧ z = s.txcfSize) ∨ (req.command = .iterate ∧ p = !s.prevSel)) :
      AnswerEffect s req { s with phase := .run, cpc := s.cpc + 4, mem := m, prevSel := p, txcfSize := z }
  | error (e : ErrorCode) (m : Memory) (d : Nat) (he : e ≠ .noError) :
      AnswerEffect s req { s with phase := .idle, err := true, errCode := e, mem := m, draws := d }

/-- Every answer that gives a next state leaves one of these shapes. -/
theorem answer_effect {s u : State} {req : CaptureRequest} {a : CaptureAnswer} (h : answerRequest req a s = .next u) :
    AnswerEffect s req u := by
  obtain ⟨_, ⟨_, rfl⟩ | ⟨b, _, _, ⟨_, rfl⟩ | ⟨hc, hf⟩⟩⟩ := answerRequest_next h
  · exact .error .captureFailure _ _ (by simp)
  · exact .done _ s.txcfSize s.prevSel (.inl ⟨rfl, rfl⟩)
  · obtain ⟨_, _, _, ⟨_, rfl⟩ | ⟨_, _, rfl⟩⟩ := finishIterate_next hf
    · exact .error .cfOverflow _ s.draws (by simp)
    · exact .done _ _ _ (.inr ⟨hc, rfl⟩)

/-- What the engine's turn leaves. -/
inductive EngineEffect (s : State) : State → Prop
  | none (h : s.phase ≠ .run) : EngineEffect s s
  | fetch (e : ErrorCode) (hp : s.phase = .run) (hf : s.fetch = .error e) (he : e = .cmdFetchFault ∨ e = .illegalCmd) :
      EngineEffect s (s.raiseError e)
  | exec (i : Instr) (u : State) (hp : s.phase = .run) (hf : s.fetch = .ok i) (hx : exec i s = .next u)
      (he : CommandEffect s i u) : EngineEffect s u

/-- Every engine step that answers a next state leaves one of these shapes. -/
theorem engine_effect {s u : State} (h : engineStep s = .next u) : EngineEffect s u := by
  rcases engineStep_next h with ⟨hp, rfl⟩ | ⟨hp, ⟨i, hi, he⟩ | ⟨e, he, rfl⟩⟩
  · exact .none hp
  · exact .exec i u hp hi he (exec_effect he)
  · exact .fetch e hp he (State.fetch_error he)

/-- A write to the block while busy: nothing, WIGN, STATUS's W1C or IRQ_EN (R49). -/
theorem State.writeReg_busy {s : State} {o : BitVec 8} {z : AccessSize} {v : Word} (h : s.busy = true) :
    s.writeReg o z v = s ∨ s.writeReg o z v = s.ignoreWrite ∨ s.writeReg o z v = s.writeStatus v ∨
      s.writeReg o z v = s.writeIrqEn v := by
  rcases s.writeReg_cases o z v with h1 | ⟨_, h1⟩ | ⟨h1, _⟩ | ⟨_, _, h1⟩ | ⟨_, _, h1⟩ | ⟨h1, _⟩ | ⟨h1, _⟩ <;> simp_all

end Sys2Proof.Machine
end

