-- ==== Sys2Proof/Laws/PerInstr.lean ====
section
/-! SUPPORT. Facts about commands as syntax, one lemma per constructor. Family TableRow: a well-formed command's word meets
its row of spec/opcode_table.json (match and mask) and has no bit that R100 reserves. -/

namespace Sys2Proof.Laws.TableRow

/-- The `mask` of the command's row in spec/opcode_table.json. -/
def mask : Instr → Word
  | .setup _ _ => 0xFFFFFCFF
  | .halt | .nop | .capture | .diff | .compress | .swap | .iterate | .decompress | .merge | .receive => 0xFFFFFFFF

/-- The `match` of the command's row in spec/opcode_table.json. -/
def value : Instr → Word
  | .halt => 0x00000001
  | .nop => 0x00000002
  | .setup _ _ => 0x00000003
  | .capture => 0x00000010
  | .diff => 0x00000011
  | .compress => 0x00000012
  | .swap => 0x00000013
  | .iterate => 0x00000014
  | .decompress => 0x00000020
  | .merge => 0x00000021
  | .receive => 0x00000022

/-- The word of the command meets its row, and a well-formed SETUP meets the row's constraint `T | R != 0`. -/
def Statement (i : Instr) : Prop :=
  encodeWord i &&& mask i = value i ∧ (i.wellFormed = true → i.opcode = setupOpcode → i.bitT = true ∨ i.bitR = true)

theorem halt : Statement .halt := by refine ⟨by decide, by decide⟩
theorem nop : Statement .nop := by refine ⟨by decide, by decide⟩
theorem setup (t r : Bool) : Statement (.setup t r) := by cases t <;> cases r <;> refine ⟨by decide, by decide⟩
theorem capture : Statement .capture := by refine ⟨by decide, by decide⟩
theorem diff : Statement .diff := by refine ⟨by decide, by decide⟩
theorem compress : Statement .compress := by refine ⟨by decide, by decide⟩
theorem swap : Statement .swap := by refine ⟨by decide, by decide⟩
theorem iterate : Statement .iterate := by refine ⟨by decide, by decide⟩
theorem decompress : Statement .decompress := by refine ⟨by decide, by decide⟩
theorem merge : Statement .merge := by refine ⟨by decide, by decide⟩
theorem receive : Statement .receive := by refine ⟨by decide, by decide⟩

end Sys2Proof.Laws.TableRow
end

