-- ==== Sys2Proof/Laws/Safety.lean ====
section
/-! SUPPORT. Whose turn it is, and what the invariant of a session says, in arithmetic: where the buffers lie and that they
are disjoint. -/

namespace Sys2Proof.Machine

/-- The engine's turn in the two forms that `step_next` gives. -/
theorem State.engineMoves_iff (s : State) :
    s.engineMoves ↔ ∃ rest, s.turns = .engine :: rest ∨ (s.turns = [] ∧ rest = []) := by
  unfold State.engineMoves
  constructor
  · rintro (h | ⟨rest, h⟩)
    · exact ⟨[], .inr ⟨h, rfl⟩⟩
    · exact ⟨rest, .inl h⟩
  · rintro ⟨rest, h | ⟨h, _⟩⟩
    · exact .inr ⟨rest, h⟩
    · exact .inl h

/-- When the engine moves, the step is an engine step with that turn taken (R131; entry 6). -/
theorem step_engineMoves {s : State} (h : s.engineMoves) : step s = engineStep (s.withTurns s.turns.tail) := by
  obtain ⟨rest, h⟩ := s.engineMoves_iff.1 h
  have hr : s.turns.tail = rest := by rcases h with h | ⟨h, rfl⟩ <;> simp [h]
  rw [hr]
  exact step_engine h

/-- Two ranges of positive length that do not overlap lie one after the other. -/
theorem Range.apart {q r : Range} (h : q.overlaps r = false) (hq : 0 < q.len) (hr : 0 < r.len) :
    r.base + r.len ≤ q.base ∨ q.base + q.len ≤ r.base := by
  rcases (Range.overlaps_false_iff q r).1 h with h | h | h | h
  · omega
  · omega
  · exact .inl h
  · exact .inr h

/-- The sender side's buffers: frames, memory bounds, and every pair apart. -/
structure SenderLayout (size len scratch cur prev txcf cap : Nat) : Prop where
  len_pos : 8 ≤ len
  len_mod : len % 8 = 0
  scratch_in : scratch + len ≤ size
  cur_in : cur + len ≤ size
  prev_in : prev + len ≤ size
  txcf_in : txcf + cap ≤ size
  cap_pos : 4 ≤ cap
  scratch_cur : cur + len ≤ scratch ∨ scratch + len ≤ cur
  scratch_prev : prev + len ≤ scratch ∨ scratch + len ≤ prev
  scratch_txcf : txcf + cap ≤ scratch ∨ scratch + len ≤ txcf
  cur_prev : prev + len ≤ cur ∨ cur + len ≤ prev
  cur_txcf : txcf + cap ≤ cur ∨ cur + len ≤ txcf
  prev_txcf : txcf + cap ≤ prev ∨ prev + len ≤ txcf

/-- The receiver side's buffers. -/
structure ReceiverLayout (size len scratch recon : Nat) : Prop where
  len_pos : 8 ≤ len
  len_mod : len % 8 = 0
  scratch_in : scratch + len ≤ size
  recon_in : recon + len ≤ size
  scratch_recon : recon + len ≤ scratch ∨ scratch + len ≤ recon

/-- The two slots are `current` and `previous`, in one order or the other (R51). -/
theorem State.slots_cases (s : State) :
    (s.curSlot = s.session.slot1 ∧ s.prevSlot = s.session.slot0) ∨
      (s.curSlot = s.session.slot0 ∧ s.prevSlot = s.session.slot1) := by
  cases h : s.prevSel <;> simp [State.curSlot, State.prevSlot, h]

/-- What SETUP has checked of a sender side (R75, R76, R135). -/
theorem State.SessionInv.sender {s : State} (h : s.SessionInv) (ht : s.txv = true) :
    SenderLayout s.memSize s.frameBytes s.session.scratch.toNat s.curSlot.toNat s.prevSlot.toNat
      s.session.txcfBase.toNat s.session.txcfCap.toNat := by
  have hf := h.frame (by simp [ht])
  have hc := h.capacity ht
  have hm := h.inMemory
  have hd := h.disjoint
  rw [pairwiseDisjoint_iff] at hd
  simp only [State.sessionRanges, State.sessionBases, ht] at hm hd
  cases hr : s.rxv <;> simp [hr, State.frameRange, State.txcfRange, State.inMemory_iff, Range.overlaps_false_iff] at hm hd <;>
    rcases s.slots_cases with ⟨h1, h2⟩ | ⟨h1, h2⟩ <;> rw [h1, h2] <;> constructor <;> omega

/-- What SETUP has checked of a receiver side (R75, R76, R135). -/
theorem State.SessionInv.receiver {s : State} (h : s.SessionInv) (hr : s.rxv = true) :
    ReceiverLayout s.memSize s.frameBytes s.session.scratch.toNat s.session.recon.toNat := by
  have hf := h.frame (by simp [hr])
  have hm := h.inMemory
  have hd := h.disjoint
  rw [pairwiseDisjoint_iff] at hd
  simp only [State.sessionRanges, State.sessionBases, hr] at hm hd
  cases ht : s.txv <;> simp [ht, State.frameRange, State.txcfRange, State.inMemory_iff, Range.overlaps_false_iff] at hm hd <;>
    constructor <;> omega

/-- In a session with both sides recon lies apart from the sender's buffers too (R76). -/
theorem State.SessionInv.both {s : State} (h : s.SessionInv) (ht : s.txv = true) (hr : s.rxv = true) :
    (s.session.recon.toNat + s.frameBytes ≤ s.curSlot.toNat ∨
      s.curSlot.toNat + s.frameBytes ≤ s.session.recon.toNat) ∧
    (s.session.recon.toNat + s.frameBytes ≤ s.prevSlot.toNat ∨
      s.prevSlot.toNat + s.frameBytes ≤ s.session.recon.toNat) ∧
    (s.session.recon.toNat + s.frameBytes ≤ s.session.txcfBase.toNat ∨
      s.session.txcfBase.toNat + s.session.txcfCap.toNat ≤ s.session.recon.toNat) := by
  have hf := h.frame (by simp [ht])
  have hc := h.capacity ht
  have hd := h.disjoint
  rw [pairwiseDisjoint_iff] at hd
  simp only [State.sessionRanges, State.sessionBases, ht, hr] at hd
  simp [State.frameRange, State.txcfRange, Range.overlaps_false_iff] at hd
  rcases s.slots_cases with ⟨h1, h2⟩ | ⟨h1, h2⟩ <;> rw [h1, h2] <;> omega

end Sys2Proof.Machine
end

