-- ==== Sys2Proof/Tests/Slice0.lean ====
section
/-! SUPPORT. Small tests, with expected results from spec 30_encoding and 95_test_vectors (the id of the vector stands at each
test), the well-formedness smoke test, and for every statement with hypotheses a witness that meets them. -/

namespace Sys2Proof.Tests

open Sys2Proof.Machine

-- One theorem after another: each kernel evaluation would hold a thread of its own.
set_option Elab.async false

/-! ### Decoding: words written out bit by bit from R100 and R103 -/

theorem test_decode_halt : decodeWord 0b0000000000000000000000_0_0_00000001 = .ok .halt := rfl
theorem test_decode_nop : decodeWord 0b0000000000000000000000_0_0_00000010 = .ok .nop := rfl
theorem test_decode_setup_tx : decodeWord 0b0000000000000000000000_0_1_00000011 = .ok (.setup true false) := rfl
theorem test_decode_setup_rx : decodeWord 0b0000000000000000000000_1_0_00000011 = .ok (.setup false true) := rfl
theorem test_decode_capture : decodeWord 0b0000000000000000000000_0_0_00010000 = .ok .capture := rfl
theorem test_decode_diff : decodeWord 0b0000000000000000000000_0_0_00010001 = .ok .diff := rfl
theorem test_decode_compress : decodeWord 0b0000000000000000000000_0_0_00010010 = .ok .compress := rfl
theorem test_decode_swap : decodeWord 0b0000000000000000000000_0_0_00010011 = .ok .swap := rfl
theorem test_decode_iterate : decodeWord 0b0000000000000000000000_0_0_00010100 = .ok .iterate := rfl
theorem test_decode_decompress : decodeWord 0b0000000000000000000000_0_0_00100000 = .ok .decompress := rfl
theorem test_decode_merge : decodeWord 0b0000000000000000000000_0_0_00100001 = .ok .merge := rfl
theorem test_decode_receive : decodeWord 0b0000000000000000000000_0_0_00100010 = .ok .receive := rfl

/-- R107: "`SETUP TX,RX` at 0x000 stores the bytes `03 03 00 00`". -/
theorem test_bytes_setup : encode (.setup true true) = [0x03, 0x03, 0x00, 0x00] ∧
    decode [0x03, 0x03, 0x00, 0x00] = .ok (.setup true true, []) := ⟨by decide, rfl⟩

/-- V-DEC-9 and V-DEC-11: unassigned opcodes, and bit 8 set in RECEIVE. -/
theorem test_decode_illegal : decodeWord 0x00000015 = .error .unknownOpcode ∧
    decodeWord 0x0000001F = .error .unknownOpcode ∧ decodeWord 0x00000023 = .error .unknownOpcode ∧
    decodeWord 0x000000FF = .error .unknownOpcode ∧ decodeWord 0x00000004 = .error .unknownOpcode ∧
    decodeWord 0x00000122 = .error .reservedBits ∧ decode [0x01, 0x00, 0x00] = .error .truncated :=
  ⟨rfl, rfl, rfl, rfl, rfl, rfl, rfl⟩

theorem test_decode_table_word : decodeTableWord 32 0x00000303 = some (.setup true true) ∧
    decodeTableWord 32 0x00000003 = none := ⟨by decide, by decide⟩

/-! ### Well-formedness: an ill-formed term for each check -/

theorem test_wellFormed_setup : Instr.wellFormed (.setup false false) = false := by decide

theorem test_wellFormed_org : AsmItem.wellFormed (.org 2) = false ∧ AsmItem.wellFormed (.cmd (.setup false false)) = false ∧
    assemble [.org 2] = none ∧ assemble [.cmd (.setup false false)] = none := by decide

/-- R107, R108: the words of program P2's first lines, and TXCYCLE's 16 bytes. -/
theorem test_assemble : assemble [.org 0, .label "top", .cmd (.setup true true), .cmd .iterate, .cmd .halt] =
    some { next := 12, words := [(0, 0x00000303), (4, 0x00000014), (8, 0x00000001)], labels := [("top", 0)] } ∧
    assemble [.label "a", .org 8, .pseudo .rxcycle, .label "b"] =
      some { next := 16, words := [(8, 0x00000020), (12, 0x00000021)], labels := [("a", 8)], pending := ["b"] } ∧
    (assemble [.pseudo .txcycle]).map Assembly.next = some 16 ∧ (assemble [.pseudo .rxcycle]).map Assembly.next = some 8 := by
  decide

/-- R107: lines of assembly. -/
theorem test_parse : parseLines ["top: SETUP TX,RX ; both", ".word 0x00000000", "  HALT", "", "RXCYCLE", ".org 16"] =
    some [.label "top", .cmd (.setup true true), .word 0, .cmd .halt, .pseudo .rxcycle, .org 16] ∧
    parseLines ["SETUP RX,TX"] = none ∧ parseLines ["halt"] = none := by decide +kernel

/-! ### Small states: layout A of 95_test_vectors, codec ID -/

/-- The outcome is a next state with a property. -/
def ends (r : Result) (p : State → Bool) : Bool :=
  match r with
  | .next u => p u
  | .fault _ => false
  | .refused _ => false

theorem ends_iff {r : Result} {p : State → Bool} (h : ends r p = true) : ∃ u, r = .next u ∧ p u = true := by
  cases r with
  | next u => exact ⟨u, rfl, h⟩
  | fault f => exact absurd h (by simp [ends])
  | refused f => exact absurd h (by simp [ends])

/-- Eight bytes of one value. -/
def x8 (b : Byte) : List Byte := List.replicate 8 b

/-- Layout A after power-on, memory never written. -/
def layoutA : State :=
  { State.powerOn 0x1000 .identity with
    regs := {
      width := 2, height := 1, slot0Base := 0x100, slot1Base := 0x108, scratchBase := 0x110, reconBase := 0x118
      txcfBase := 0x200, txcfCap := 0x40, rxcfBase := 0x300, rxcfSize := 0 } }

/-- A session of layout A in phase RUN, at CPC 0, with the four frame buffers filled. -/
def session (t r : Bool) (slot0 slot1 scratch recon : List Byte) : State :=
  { ((((layoutA.setupSession t r).writeBytes 0x100 slot0).writeBytes 0x108 slot1).writeBytes 0x110 scratch).writeBytes
      0x118 recon with phase := .run }

/-- Both sides, all frames zero, as SETUP leaves them. -/
def fresh : State := session true true (x8 0) (x8 0) (x8 0) (x8 0)

/-- A session in which every frame differs. -/
def busyBoth : State := session true true (x8 0x33) (x8 0x11) (x8 0x0F) (x8 0xFF)

/-- A state with a payload in the RXCF buffer at 0x300. -/
def withPayload (s : State) (bytes : List Byte) : State :=
  { s.writeBytes 0x300 bytes with regs := { s.regs with rxcfBase := 0x300, rxcfSize := BitVec.ofNat 32 bytes.length } }

/-- The codec of V-CMP-5 in place of ID. -/
def overflowing (s : State) : State := { s with codecChoice := .overflowing }

/-- A state with a command word at CPC. -/
def atCpc (s : State) (w : Word) : State := s.writeBytes s.cpc.toNat (le32 w)

/-- A state that waits for a capture answer, with turns to come. -/
def waiting (s : State) (command : WaitingCommand) (turns : List Turn) : State :=
  (s.requestCapture command).withTurns turns

/-- STATUS, bit by bit as R34 has it. -/
def status (s : State) : Word := s.readReg 0x04 .word

/-! ### SETUP (V-SET) -/

theorem test_setup_success : ends (exec (.setup true true) layoutA) (fun u =>
    u.session.frameLen == 8 && u.readBytes 0x100 32 == List.replicate 32 0 && u.readBytes 0x200 4 == [8, 0, 0, 0] &&
      u.txcfSize == 4 && status u == 0x00000030) = true := by decide +kernel

/-- V-SET-16: a failed SETUP keeps the old session. -/
theorem test_setup_failed : ends (exec (.setup true true) { fresh with regs := { fresh.regs with width := 3 } }) (fun u =>
    u.errCode == .bufferSizeMismatch && u.session.frameLen == 8 && u.txv && u.rxv && u.cpc == 0) = true := by decide +kernel

/-! ### Sequencer and registers (V-FET, V-SEQ, V-NOP) -/

/-- V-FET-5: CPC wraps after HALT at the top of memory. -/
theorem test_halt_wraps : ends (exec .halt { fresh with cpc := 0xFFFFFFFC }) (fun u =>
    u.cpc == 0 && u.done && u.phase == .idle) = true := by decide +kernel

/-- V-FET-4: NOP at the last word of memory. -/
theorem test_nop_top : ends (step (atCpc { fresh with cpc := 0xFFC } 0x00000002)) (fun u =>
    u.cpc == 0x1000 && u.phase == .run && ends (step u) (fun v => v.errCode == .cmdFetchFault && v.cpc == 0x1000)) =
      true := by decide +kernel

/-- V-FET-1: the STATUS of a misaligned fetch with no session. -/
theorem test_fetch_misaligned : ends (step { State.powerOn 0x1000 .identity with cpc := 2, phase := .run }) (fun u =>
    status u == 0x00000204 && u.cpc == 2) = true := by decide +kernel

/-- V-SEQ-5, V-SEQ-8: a write while busy is ignored and sets WIGN, which a write of 8 to STATUS clears. -/
theorem test_write_while_busy :
    let u := (waiting fresh .capture []).writeReg 0x10 .word 8
    u.regs.width = 2 ∧ u.wign = true ∧ (u.writeReg 0x04 .word 8).wign = false := by decide +kernel

/-- V-SEQ-1, V-SEQ-2: CTRL = 1 starts HALT at 0; IRQ follows DONE_IE. -/
theorem test_start_halt : ends (step { atCpc (State.powerOn 0x1000 .identity) 1 with
      turns := [.hostWrite 0x08 .word 2, .hostWrite 0x00 .word 1] }) (fun u => ends (step u) (fun v => v.busy &&
        ends (step v) (fun w => w.cpc == 4 && status w == 2 && w.irq && !(w.writeReg 0x04 .word 2).irq))) = true := by
  decide +kernel

/-- V-SEQ-11, V-SEQ-12: narrow, misaligned and reserved accesses. -/
theorem test_odd_accesses : (layoutA.writeReg 0x10 .byte 5) = layoutA ∧ layoutA.readReg 0x02 .word = 0 ∧
    layoutA.readReg 0x80 .word = 0 ∧ layoutA.writeReg 0x18 .word 5 = layoutA := by decide +kernel

/-! ### One or two vectors for each other command -/

/-- V-CAP-3: with PREV_SEL = 1 the capture fills slot 0. -/
theorem test_capture : ends (exec .capture { fresh with prevSel := true }) (fun w =>
    w.phase == .waitCapture ⟨0x100, 8, .capture⟩ &&
      ends (step (w.withTurns [.captureAnswer (.ok (x8 0xAA))])) (fun u =>
        u.readBytes 0x100 8 == x8 0xAA && u.readBytes 0x108 8 == x8 0 && u.cpc == 4)) = true := by decide +kernel

/-- V-CAP-2. -/
theorem test_capture_fail : ends (step (waiting fresh .capture [.captureAnswer .fail])) (fun u =>
    u.errCode == .captureFailure && u.cpc == 0 && u.readBytes 0x100 8 == x8 0 && u.txcfSize == 4 && !u.prevSel) = true := by
  decide +kernel

/-- V-DIF-2. -/
theorem test_diff : ends (exec .diff (session true false [1, 2, 3, 4, 5, 6, 7, 8] [1, 2, 3, 4, 5, 6, 7, 9] (x8 0) (x8 0)))
    (fun u => u.readBytes 0x110 8 == [0, 0, 0, 0, 0, 0, 0, 1]) = true := by decide +kernel

/-- V-NS-2: DIFF in a session with the receiver side alone. -/
theorem test_diff_no_session : ends (exec .diff (session false true (x8 0) (x8 0) (x8 0) (x8 0))) (fun u =>
    u.errCode == .noSession && u.cpc == 0) = true := by decide +kernel

/-- V-MRG-2. -/
theorem test_merge : ends (exec .merge busyBoth) (fun u =>
    u.readBytes 0x118 8 == x8 0xF0 && u.readBytes 0x110 8 == x8 0x0F) = true := by decide +kernel

/-- V-CMP-1. -/
theorem test_compress : ends (exec .compress (session true true (x8 0) (x8 0) (x8 0xFF) (x8 0))) (fun u =>
    u.readBytes 0x200 12 == [8, 0, 0, 0] ++ x8 0xFF && u.txcfSize == 12) = true := by decide +kernel

/-- V-CMP-5. -/
theorem test_compress_overflow : ends (exec .compress (overflowing fresh)) (fun u =>
    u.errCode == .cfOverflow && u.txcfSize == 4 && u.readBytes 0x200 4 == [8, 0, 0, 0]) = true := by decide +kernel

/-- V-DCM-1. -/
theorem test_decompress : ends (exec .decompress (withPayload fresh ([8, 0, 0, 0] ++ x8 0xFF))) (fun u =>
    u.readBytes 0x110 8 == x8 0xFF && u.readBytes 0x118 8 == x8 0) = true := by decide +kernel

/-- V-DCM-9: the payload may end at the top of memory. -/
theorem test_decompress_top :
    ends (exec .decompress { fresh with regs := { fresh.regs with rxcfBase := 0xFFC, rxcfSize := 4 } }) (fun u =>
      u.errCode == .noPayload) = true := by decide +kernel

/-- V-SWP-1. -/
theorem test_swap : ends (exec .swap fresh) (fun u => u.prevSel && u.mem == fresh.mem && u.cpc == 4) = true := by
  decide +kernel

/-- V-IT-1, V-IT-2. -/
theorem test_iterate : ends (execAnswered .iterate (.ok (x8 0xFF)) fresh) (fun u =>
    u.readBytes 0x108 8 == x8 0xFF && u.readBytes 0x100 8 == x8 0 && u.readBytes 0x200 12 == [8, 0, 0, 0] ++ x8 0xFF &&
      u.txcfSize == 12 && u.prevSel && ends (execAnswered .iterate (.ok (x8 0xFE)) u) (fun v =>
        v.readBytes 0x100 8 == x8 0xFE && v.readBytes 0x110 8 == x8 0x01 && !v.prevSel)) = true := by decide +kernel

/-- V-RCV-1. -/
theorem test_receive : ends (exec .receive (withPayload fresh ([8, 0, 0, 0] ++ x8 0xFF))) (fun u =>
    u.readBytes 0x118 8 == x8 0xFF && u.readBytes 0x110 8 == x8 0xFF) = true := by decide +kernel

/-- V-RCV-4: seven bytes are no frame of eight. -/
theorem test_receive_short : ends (exec .receive (withPayload busyBoth ([8, 0, 0, 0] ++ List.replicate 7 0xFF))) (fun u =>
    u.errCode == .decompressionFailure && u.readBytes 0x118 8 == x8 0xFF) = true := by decide +kernel

/-- V-RST-1. -/
theorem test_reset : ends (step (busyBoth.withTurns [.reset])) (fun u =>
    status u == 0 && u.txcfSize == 4 && u.cpc == 0 && !u.irq && u.readReg 0x18 .word == 0) = true := by decide +kernel

/-- The first step after reset runs a placed word (entry 13): HALT. -/
theorem test_withFetchWord : ends (step (State.reset.withFetchWord 32 0x00000001)) (fun u => u.done && u.cpc == 4) =
    true := by decide +kernel

/-! ### The invariant of a small state, checked -/

/-- The parts of the invariant as one check. -/
def invCheck (s : State) : Bool :=
  decide ((s.busy = true → s.done = false ∧ s.err = false) ∧ ¬(s.done = true ∧ s.err = true) ∧
    (s.err = false → s.errCode = .noError) ∧ (s.err = true → s.errCode ≠ .noError)) &&
  decide (16 ≤ s.memSize ∧ s.memSize ≤ 2 ^ 32 ∧ s.mem.wf = true ∧ s.mem.below s.memSize = true) &&
  decide (((s.txv || s.rxv) = true → 8 ≤ s.frameBytes ∧ s.frameBytes % 8 = 0) ∧
    s.sessionBases.all (fun b => b.toNat % 8 == 0) = true ∧ (∀ q ∈ s.sessionRanges, s.inMemory q = true) ∧
    pairwiseDisjoint s.sessionRanges = true ∧
    (s.txv = true → 4 + s.codec.bound s.frameBytes ≤ s.session.txcfCap.toNat) ∧ 4 ≤ s.txcfSize.toNat ∧
    (s.txv = true → s.txcfSize.toNat ≤ s.session.txcfCap.toNat)) &&
  (match s.phase with
   | .idle => true
   | .run => true
   | .waitCapture req => decide (s.txv = true ∧ req.base = s.curSlot ∧ req.len = s.session.frameLen))

theorem inv_of_check {s : State} (h : invCheck s = true) : s.Inv := by
  simp only [invCheck, Bool.and_eq_true, decide_eq_true_eq] at h
  obtain ⟨⟨⟨⟨h1, h2, h3, h4⟩, h5, h6, h7, h8⟩, a, b, c, d, e, f, g⟩, hw⟩ := h
  refine ⟨⟨h1, h2, h3, h4⟩, ⟨h5, h6, h7, h8⟩, ⟨a, by simpa using b, c, d, e, f, g⟩, fun req hp => ?_⟩
  rw [hp] at hw
  exact of_decide_eq_true hw

theorem inv_fresh : fresh.Inv := inv_of_check (by decide +kernel)
theorem inv_busyBoth : busyBoth.Inv := inv_of_check (by decide +kernel)
theorem inv_overflowing : (overflowing fresh).Inv := inv_of_check (by decide +kernel)

theorem lawful_of_identity {s : State} (h : s.codecChoice = .identity) : s.codec.Lawful := by
  rw [State.codec, h]
  exact Codec.identity_lawful

theorem lawful_fresh : fresh.codec.Lawful := lawful_of_identity (by decide +kernel)
theorem lawful_busyBoth : busyBoth.codec.Lawful := lawful_of_identity (by decide +kernel)

/-! ### Witnesses: for every statement with hypotheses, states and operands that meet them together -/

theorem witness_DecodeUndoesEncode : ∀ i ∈ [Instr.halt, .setup true false, .setup false true, .setup true true, .receive],
    i.wellFormed = true := by decide

/-- One illegal word for each case of R102 and a legal word, each at the last fetchable CPC. -/
theorem witness_EveryWordIsOneCommandOrIllegal : ∀ w ∈ [0x00000015, 0x00000102, 0x00000703, 0x00000003, 0x00000303],
    let s := atCpc { fresh with cpc := 0xFFC } (BitVec.ofNat 32 w)
    s.phase = .run ∧ s.turns = [] ∧ s.cpc.toNat % 4 = 0 ∧ s.cpc.toNat + 4 = s.memSize ∧
      s.memRead s.cpc.toNat 4 = w := by decide +kernel

theorem witness_EveryWordIsOneCommandOrIllegal_turn : (atCpc { fresh with turns := [.engine, .reset] } 0x15).turns =
    .engine :: [.reset] := rfl

theorem witness_words_are_illegal : (0x15#8) ∉ [0x01#8, 0x02, 0x03, 0x10, 0x11, 0x12, 0x13, 0x14, 0x20, 0x21, 0x22] ∧
    (0x102#32).extractLsb' 0 8 ≠ 0x03 ∧ (0x102#32).extractLsb' 8 24 ≠ 0 ∧ (0x703#32).extractLsb' 10 22 ≠ 0 ∧
    (0x003#32).extractLsb' 8 2 = 0 ∧ (0x303#32).extractLsb' 10 22 = 0 ∧ (0x303#32).extractLsb' 8 2 ≠ 0 := by decide

/-- A misaligned CPC, a CPC at MEM_SIZE, and the last fetchable CPC with a command there; the engine's turn and no turn. -/
theorem witness_StepRunsTheCommandAtCpc :
    (({ fresh with cpc := 2 } : State).cpc.toNat % 4 ≠ 0) ∧
    (({ fresh with cpc := 0x1000 } : State).cpc.toNat + 4 > fresh.memSize) ∧
    (let s := atCpc { fresh with cpc := 0xFFC, turns := [.engine, .reset] } 0x11
     s.phase = .run ∧ s.turns = .engine :: [.reset] ∧ s.cpc.toNat % 4 = 0 ∧ s.cpc.toNat + 4 ≤ s.memSize ∧
       decodeTableWord 32 (s.memRead s.cpc.toNat 4) = some .diff) ∧ fresh.turns = [] ∧ fresh.phase = .run := by
  decide +kernel

/-- One state for each of the four ways. -/
theorem witness_EngineStepEndsInOneOfFourWays : ∀ w ∈ [0x02, 0x01, 0x00, 0x10],
    let s := atCpc fresh (BitVec.ofNat 32 w)
    s.StatusInv ∧ s.phase = .run ∧ s.engineMoves ∧
      ends (step s) (fun u => match w with
        | 0x02 => u.phase == .run && u.cpc == 4
        | 0x01 => u.done && u.cpc == 4
        | 0x00 => u.err && u.cpc == 0
        | _ => u.busy && u.phase != .run) = true := by
  intro w hw
  refine ⟨(inv_of_check ?_).status, rfl, .inl rfl, ?_⟩ <;> revert w <;> decide +kernel

theorem witness_WaitEndsOnlyByAnswerOrReset : ∀ t ∈ [Turn.captureAnswer .fail, .captureAnswer (.ok (x8 1)), .reset],
    ends (step (waiting fresh .capture [t])) (fun u => u.phase != (waiting fresh .capture [t]).phase) = true := by
  decide +kernel

theorem witness_SilentCaptureAgentHangsTheRun : (waiting fresh .iterate []).phase = .waitCapture ⟨0x108, 8, .iterate⟩ ∧
    (waiting fresh .iterate []).turns = [] := by decide +kernel

theorem witness_RunEndsOnlyByHaltErrorOrReset : ∀ s ∈ [atCpc fresh 1, atCpc fresh 0, fresh.withTurns [.reset]],
    s.StatusInv ∧ s.busy = true ∧ ends (step s) (fun u => !u.busy) = true := by
  intro s hs
  refine ⟨(inv_of_check ?_).status, ?_, ?_⟩ <;> revert s <;> decide +kernel

/-- V-SEQ-1: the start of a run from IDLE; and an engine turn in IDLE. -/
theorem witness_RunEndsOnlyByHaltErrorOrReset_idle :
    (layoutA.withTurns [.hostWrite 0x00 .word 1]).phase = .idle ∧
    ends (step (layoutA.withTurns [.hostWrite 0x00 .word 1])) (fun u => u.phase != .idle) = true ∧
    layoutA.phase = .idle ∧ (layoutA.withTurns [.engine]).engineMoves ∧ layoutA.engineMoves :=
  ⟨rfl, by decide +kernel, rfl, .inr ⟨[], rfl⟩, .inl rfl⟩

theorem witness_HaltStopsTheSequencer : ({ fresh with cpc := 0xFFFFFFFC } : State).cpc = 0xFFFFFFFC := rfl

/-- SETUP's clauses at boundary values: V-SET-2, V-SET-3, V-SET-6, V-SET-9, V-SET-19, V-SET-12 and, with none failing, V-SET-7. -/
theorem witness_SetupChecksInOrder :
    ends (exec (.setup true false) { layoutA with regs := { layoutA.regs with width := 0 } })
      (fun u => u.errCode == .bufferSizeMismatch) = true ∧
    ends (exec (.setup false true) { layoutA with regs := { layoutA.regs with width := 3 } })
      (fun u => u.errCode == .bufferSizeMismatch) = true ∧
    ends (exec (.setup true false) { layoutA with regs := { layoutA.regs with txcfCap := 11 } })
      (fun u => u.errCode == .bufferSizeMismatch) = true ∧
    ends (exec (.setup true false) { layoutA with regs := { layoutA.regs with slot0Base := 0x104 } })
      (fun u => u.errCode == .bufferRange) = true ∧
    ends (exec (.setup true false) { layoutA with regs := { layoutA.regs with txcfBase := 0xFF0 } })
      (fun u => u.errCode == .bufferRange) = true ∧
    ends (exec (.setup true false) { layoutA with regs := { layoutA.regs with slot1Base := 0x100 } })
      (fun u => u.errCode == .bufferRange) = true ∧
    ends (exec (.setup true false) { layoutA with regs := { layoutA.regs with txcfCap := 12 } })
      (fun u => u.cpc == 4 && u.txv) = true := by decide +kernel

theorem witness_SetupConstructsTheSession : ∀ p ∈ [(true, false), (false, true), (true, true)],
    layoutA.memSize ≤ 2 ^ 32 ∧ (p.1 || p.2) = true ∧ layoutA.setupError p.1 p.2 = none := by decide +kernel

theorem witness_FailedSetupChangesNothing :
    layoutA.err = false ∧ ends (exec (.setup true false) { layoutA with regs := { layoutA.regs with height := 0 } })
      (fun u => u.err) = true := by decide +kernel

theorem witness_SideValidityComesFirst : layoutA.txv = false ∧ layoutA.rxv = false ∧ fresh.txv = true ∧
    fresh.rxv = true ∧ ends (exec .nop { layoutA with errCode := .noSession }) (fun u => u.errCode == .noSession) = true ∧
    (∀ w ∈ [0x10, 0x14, 0x22], layoutA.errCode = .noError ∧
      ends (step (atCpc { layoutA with phase := .run } (BitVec.ofNat 32 w))) (fun u => u.errCode == .noSession) = true) := by
  decide +kernel

/-- A step that keeps the session, one that runs SETUP, and a reset. -/
theorem witness_SessionChangesOnlyBySetup :
    ends (step (atCpc fresh 0x11)) (fun u => u.session == fresh.session) = true ∧
    ends (step (atCpc { layoutA with phase := .run } 0x303)) (fun u => u.session != layoutA.session && u.txv) = true ∧
    ends (step (fresh.withTurns [.reset])) (fun u => u.session != fresh.session) = true := by decide +kernel

/-- SETUP TX, SWAP, the end of an ITERATE, and a reset, each of which changes PREV_SEL. -/
theorem witness_PrevSelSelectsAndItsWriters :
    ends (step (atCpc { fresh with prevSel := true } 0x103)) (fun u => !u.prevSel) = true ∧
    ends (step (atCpc fresh 0x13)) (fun u => u.prevSel) = true ∧
    ends (step (waiting fresh .iterate [.captureAnswer (.ok (x8 1))])) (fun u => u.prevSel) = true ∧
    ends (step { fresh with prevSel := true, turns := [.reset] }) (fun u => !u.prevSel) = true := by decide +kernel

/-- COMPRESS, the end of an ITERATE, SETUP TX, and a reset, each of which changes TXCF_SIZE. -/
theorem witness_TxcfSizeWriters :
    ends (step (atCpc fresh 0x12)) (fun u => u.txcfSize == 12) = true ∧
    ends (step (waiting fresh .iterate [.captureAnswer (.ok (x8 1))])) (fun u => u.txcfSize == 12) = true ∧
    ends (step (atCpc { fresh with txcfSize := 12 } 0x103)) (fun u => u.txcfSize == 4) = true ∧
    ends (step { fresh with txcfSize := 12, turns := [.reset] }) (fun u => u.txcfSize == 4) = true := by decide +kernel

theorem witness_CaptureFillsCurrent : fresh.txv = true ∧ (x8 0xFF).length = fresh.frameBytes ∧
    fresh.curSlot.toNat + fresh.frameBytes ≤ fresh.memSize ∧ fresh.phase = .run := by decide +kernel

theorem witness_CaptureFailureLeavesFrameState :
    (waiting busyBoth .iterate [.captureAnswer .fail, .engine]).Inv ∧
    (waiting busyBoth .iterate [.captureAnswer .fail, .engine]).phase = .waitCapture ⟨0x108, 8, .iterate⟩ ∧
    (waiting busyBoth .iterate [.captureAnswer .fail, .engine]).turns = .captureAnswer .fail :: [.engine] :=
  ⟨inv_of_check (by decide +kernel), by decide +kernel, rfl⟩

/-- Also with the last buffer at the end of memory. -/
theorem witness_DiffWritesTheDelta : ∀ s ∈ [busyBoth, { busyBoth with memSize := 0x118 }],
    s.txv = true ∧ s.curSlot.toNat + s.frameBytes ≤ s.memSize ∧ s.prevSlot.toNat + s.frameBytes ≤ s.memSize ∧
      s.session.scratch.toNat + s.frameBytes ≤ s.memSize := by decide +kernel

theorem witness_MergeUpdatesRecon : ∀ s ∈ [busyBoth, { busyBoth with memSize := 0x120 }],
    s.rxv = true ∧ s.session.recon.toNat + s.frameBytes ≤ s.memSize ∧
      s.session.scratch.toNat + s.frameBytes ≤ s.memSize := by decide +kernel

/-- Layout B's geometry, two words, taken in reverse order. -/
def twoWords : State :=
  { ({ layoutA with
      regs := { layoutA.regs with
        width := 4, slot1Base := 0x110, scratchBase := 0x120, reconBase := 0x130 } } : State).setupSession true true with
    phase := .run }

theorem witness_WordOrderCannotBeObserved : twoWords.Inv ∧ [1, 0].Perm (List.range (twoWords.frameBytes / 8)) ∧
    twoWords.txv = true ∧ twoWords.rxv = true :=
  ⟨inv_of_check (by decide +kernel), by decide +kernel, rfl, rfl⟩

theorem witness_EqualSlotsGiveZeroDelta : (session true false (x8 0x5A) (x8 0x5A) (x8 1) (x8 2)).Inv ∧
    (let s := session true false (x8 0x5A) (x8 0x5A) (x8 1) (x8 2)
     s.txv = true ∧ s.frameAt s.session.slot0 = s.frameAt s.session.slot1) :=
  ⟨inv_of_check (by decide +kernel), by decide +kernel⟩

theorem witness_DiffThenMergeGivesCurrent : (session true true (x8 0x33) (x8 0x11) (x8 0) (x8 0x33)).Inv ∧
    (let s := session true true (x8 0x33) (x8 0x11) (x8 0) (x8 0x33)
     s.txv = true ∧ s.rxv = true ∧ s.frameAt s.session.recon = s.frameAt s.prevSlot) :=
  ⟨inv_of_check (by decide +kernel), by decide +kernel⟩

theorem witness_MergesCommute : busyBoth.Inv ∧ busyBoth.rxv = true ∧ busyBoth.frameAt busyBoth.session.recon = x8 0xFF ∧
    (x8 0x11).length = (x8 0xFF).length ∧ (x8 0x22).length = (x8 0xFF).length ∧ x8 0x11 ≠ x8 0x22 :=
  ⟨inv_busyBoth, rfl, by decide +kernel, rfl, rfl, by decide⟩

/-- A payload that fills TXCF to the last byte. -/
theorem witness_CompressWritesThePayload :
    let s := { busyBoth with session := { busyBoth.session with txcfCap := 12 } }
    s.txv = true ∧ s.session.scratch.toNat + s.frameBytes ≤ s.memSize ∧
      4 + (s.codec.enc (s.frameAt s.session.scratch)).length = s.session.txcfCap.toNat ∧
      s.session.txcfBase.toNat + s.session.txcfCap.toNat ≤ s.memSize := by decide +kernel

theorem witness_OverflowOnlyForAnUnlawfulCodec : (busyBoth.Inv ∧ busyBoth.codec.Lawful ∧ busyBoth.txv = true) ∧
    (let s := { busyBoth with session := { busyBoth.session with txcfCap := 11 } }
     s.txv = true ∧ s.session.scratch.toNat + s.frameBytes ≤ s.memSize ∧
       s.session.txcfCap.toNat < 4 + (s.codec.enc (s.frameAt s.session.scratch)).length) :=
  ⟨⟨inv_busyBoth, lawful_busyBoth, rfl⟩, by decide +kernel⟩

/-- The payload checks' clauses: no session, V-DCM-7, V-DCM-6, RXCF_SIZE 0 at recon (V-DCM-10), 3, 4, 5 with a wrong header
(V-DCM-4) and a good payload of 5 bytes. -/
theorem witness_PayloadChecksInOrder :
    layoutA.rxv = false ∧
    ({ fresh with regs := { fresh.regs with rxcfBase := 0xFFC, rxcfSize := 12 } } : State).payloadError = some .bufferRange ∧
    ({ fresh with regs := { fresh.regs with rxcfBase := 0x114, rxcfSize := 12 } } : State).payloadError = some .bufferRange ∧
    ({ fresh with regs := { fresh.regs with rxcfBase := 0x118, rxcfSize := 0 } } : State).payloadError =
      some .decompressionFailure ∧
    (withPayload fresh [8, 0, 0]).payloadError = some .decompressionFailure ∧
    (withPayload fresh [8, 0, 0, 0]).payloadError = some .noPayload ∧
    (withPayload fresh [0x10, 0, 0, 0, 1]).payloadError = some .decompressionFailure ∧
    (withPayload fresh [8, 0, 0, 0, 1]).payloadError = none := by decide +kernel

theorem witness_DecompressFillsScratch :
    let s := withPayload busyBoth ([8, 0, 0, 0] ++ x8 0xFF)
    s.payloadError = none ∧ s.session.scratch.toNat + s.frameBytes ≤ s.memSize ∧
      s.codec.dec (s.readBytes (s.regs.rxcfBase.toNat + 4) (s.regs.rxcfSize.toNat - 4)) = some (x8 0xFF) ∧
      (x8 0xFF).length = s.frameBytes := by decide +kernel

/-- A decoder that answers 7 bytes, and one that answers nothing. -/
theorem witness_CodecStageFailureTouchesOnlyScratch :
    (withPayload busyBoth ([8, 0, 0, 0] ++ List.replicate 7 1)).Inv ∧
    (let s := withPayload busyBoth ([8, 0, 0, 0] ++ List.replicate 7 1)
     s.payloadError = none ∧
       s.codec.dec (s.readBytes (s.regs.rxcfBase.toNat + 4) (s.regs.rxcfSize.toNat - 4)) = some (List.replicate 7 1)) ∧
    (overflowing (withPayload busyBoth ([8, 0, 0, 0] ++ x8 1))).Inv ∧
    (let s := overflowing (withPayload busyBoth ([8, 0, 0, 0] ++ x8 1))
     s.payloadError = none ∧
       s.codec.dec (s.readBytes (s.regs.rxcfBase.toNat + 4) (s.regs.rxcfSize.toNat - 4)) = none) :=
  ⟨inv_of_check (by decide +kernel), by decide +kernel, inv_of_check (by decide +kernel), by decide +kernel⟩

theorem witness_CompressThenDecompressRoundTrips :
    busyBoth.Inv ∧ busyBoth.codec.Lawful ∧ busyBoth.txv = true ∧ busyBoth.rxv = true ∧
      (x8 0xA5).length = busyBoth.frameBytes :=
  ⟨inv_busyBoth, lawful_busyBoth, rfl, rfl, by decide +kernel⟩

theorem witness_SwapExchangesRoles : layoutA.txv = false ∧ fresh.txv = true := ⟨rfl, rfl⟩

/-- With a lawful codec, and with the payload fitting to the last byte. -/
theorem witness_IterateCapturesDiffsCompressesSwaps :
    (busyBoth.Inv ∧ busyBoth.phase = .run ∧ busyBoth.txv = true ∧ (x8 1).length = busyBoth.frameBytes ∧
      busyBoth.codec.Lawful) ∧
    (let s := { busyBoth with session := { busyBoth.session with txcfCap := 12 } }
     4 + (s.codec.enc (xorw (x8 1) (s.frameAt s.prevSlot))).length = s.session.txcfCap.toNat) :=
  ⟨⟨inv_busyBoth, rfl, rfl, rfl, lawful_busyBoth⟩, by decide +kernel⟩

theorem witness_IterateOverflowKeepsThePayload : (overflowing fresh).Inv ∧
    (let s := overflowing fresh
     s.txv = true ∧ (x8 0xFF).length = s.frameBytes ∧
       s.session.txcfCap.toNat < 4 + (s.codec.enc (xorw (x8 0xFF) (s.frameAt s.prevSlot))).length) :=
  ⟨inv_overflowing, by decide +kernel⟩

/-- The four ways the two forms end: success, CAPTURE_FAILURE, CF_OVERFLOW and NO_SESSION. -/
theorem witness_IterateEqualsTxcycle : (busyBoth.Inv ∧ busyBoth.phase = .run ∧ (x8 1).length = busyBoth.frameBytes) ∧
    ends (execAnswered .iterate .fail busyBoth) (fun v => v.errCode == .captureFailure) = true ∧
    ((overflowing fresh).Inv ∧
      ends (execAnswered .iterate (.ok (x8 1)) (overflowing fresh)) (fun v => v.errCode == .cfOverflow) = true) ∧
    (session false true (x8 0) (x8 0) (x8 0) (x8 0)).Inv :=
  ⟨⟨inv_busyBoth, rfl, rfl⟩, by decide +kernel, ⟨inv_overflowing, by decide +kernel⟩, inv_of_check (by decide +kernel)⟩

/-- A fresh session with two captures, and the two ways an ITERATE fails. -/
theorem witness_SlotsHoldTheLastTwoCaptures : fresh.Inv ∧ fresh.codec.Lawful ∧ fresh.phase = .run ∧ fresh.txv = true ∧
    fresh.prevSel = false ∧ fresh.frameAt fresh.session.slot0 = List.replicate fresh.frameBytes 0 ∧
    [x8 1, x8 2] ≠ [] ∧ (∀ f ∈ [x8 1, x8 2], f.length = fresh.frameBytes) ∧
    ends (execAnswered .iterate .fail fresh) (fun u => u.phase == .idle) = true ∧ (overflowing fresh).Inv ∧
    ends (execAnswered .iterate (.ok (x8 1)) (overflowing fresh)) (fun u => u.phase == .idle) = true :=
  ⟨inv_fresh, lawful_fresh, rfl, rfl, by decide +kernel, by decide +kernel, by decide, by decide +kernel, by decide +kernel,
    inv_overflowing, by decide +kernel⟩

theorem witness_ReceiveAppliesThePayload : (withPayload busyBoth ([8, 0, 0, 0] ++ x8 0xFF)).Inv ∧
    (let s := withPayload busyBoth ([8, 0, 0, 0] ++ x8 0xFF)
     s.payloadError = none ∧
       s.codec.dec (s.readBytes (s.regs.rxcfBase.toNat + 4) (s.regs.rxcfSize.toNat - 4)) = some (x8 0xFF) ∧
       (x8 0xFF).length = s.frameBytes) :=
  ⟨inv_of_check (by decide +kernel), by decide +kernel⟩

/-- An error at the checks, an error at the codec, and a success. -/
theorem witness_ReceiverErrorsLeaveRecon : ∀ p ∈ [([8, 0, 0, 0], true), ([8, 0, 0, 0, 1], true), ([8, 0, 0, 0] ++ x8 1, false)],
    (withPayload busyBoth p.1).Inv ∧ (withPayload busyBoth p.1).err = false ∧
      ends (exec .receive (withPayload busyBoth p.1)) (fun u => u.err == p.2) = true := by
  intro p hp
  refine ⟨inv_of_check ?_, ?_, ?_⟩ <;> revert p <;> decide +kernel

theorem witness_ReceiveEqualsRxcycle : (withPayload busyBoth ([8, 0, 0, 0] ++ x8 0xFF)).Inv ∧
    (withPayload busyBoth ([8, 0, 0, 0] ++ x8 0xFF)).phase = .run ∧ busyBoth.Inv ∧
    ends (exec .receive busyBoth) (fun u => u.err) = true :=
  ⟨inv_of_check (by decide +kernel), rfl, inv_busyBoth, by decide +kernel⟩

/-- The state that an ITERATE with capture FF×8 leaves (V-IT-1). -/
def sent : State := (nextState? (execAnswered .iterate (.ok (x8 0xFF)) fresh)).getD fresh

/-- The same machine as the receiver of its own payload (program P2). -/
def receiving : State := { sent with regs := { sent.regs with rxcfBase := 0x200, rxcfSize := sent.txcfSize } }

theorem witness_EndToEndDelivery : fresh.Inv ∧ receiving.Inv ∧ fresh.codec.Lawful ∧
    execAnswered .iterate (.ok (x8 0xFF)) fresh = .next sent ∧
    (sent.phase = .run ∧ receiving.codecChoice = fresh.codecChoice ∧ fresh.phase = .run ∧ fresh.txv = true ∧ receiving.rxv = true ∧
      receiving.frameBytes = fresh.frameBytes ∧ (x8 0xFF).length = fresh.frameBytes ∧
      receiving.frameAt receiving.session.recon = fresh.frameAt fresh.prevSlot ∧
      receiving.regs.rxcfSize = sent.txcfSize ∧
      receiving.regs.rxcfBase.toNat + receiving.regs.rxcfSize.toNat ≤ receiving.memSize ∧
      receiving.rxcfRange.overlaps receiving.scratchRange = false ∧
      receiving.rxcfRange.overlaps receiving.reconRange = false ∧
      receiving.readBytes receiving.regs.rxcfBase.toNat receiving.regs.rxcfSize.toNat =
        sent.readBytes sent.session.txcfBase.toNat sent.txcfSize.toNat) := by
  refine ⟨inv_fresh, inv_of_check (by decide +kernel), lawful_fresh, ?_, by decide +kernel⟩
  obtain ⟨u, hu, -⟩ := ends_iff (r := execAnswered .iterate (.ok (x8 0xFF)) fresh) (p := fun _ => true) (by decide +kernel)
  rw [sent, hu]
  rfl

theorem witness_EqualCapturesLeaveReconUnchanged : (withPayload busyBoth ([8, 0, 0, 0] ++ x8 0)).Inv ∧
    (withPayload busyBoth ([8, 0, 0, 0] ++ x8 0)).codec.Lawful ∧
    (let s := withPayload busyBoth ([8, 0, 0, 0] ++ x8 0)
     s.payloadError = none ∧ (x8 0x5A).length = s.frameBytes ∧
       s.readBytes (s.regs.rxcfBase.toNat + 4) (s.regs.rxcfSize.toNat - 4) = s.codec.enc (xorw (x8 0x5A) (x8 0x5A))) :=
  ⟨inv_of_check (by decide +kernel), lawful_of_identity (by decide +kernel), by decide +kernel⟩

/-- Errors of a fetch, a command, a capture answer. -/
theorem witness_ErrorStopKeepsCpc : ∀ s ∈ [{ fresh with cpc := 2 }, atCpc fresh 0, waiting fresh .capture [.captureAnswer .fail]],
    s.err = false ∧ ends (step s) (fun u => u.err && u.cpc == s.cpc) = true := by decide +kernel

/-- A failed capture that changes a byte: the slot held another byte than the free one drawn. -/
theorem witness_ErrorsArePrecise_captureFailure :
    let s := waiting (session true false (x8 0) (x8 (Config.freeByte 0 + 1)) (x8 0) (x8 0)) .capture [.captureAnswer .fail]
    s.Inv ∧ s.err = false ∧ ∃ u, step s = .next u ∧ u.err = true ∧ u.byteAt 0x108 = Config.freeByte 0 ∧
      s.byteAt 0x108 = Config.freeByte 0 + 1 ∧ u.byteAt 0x108 ≠ s.byteAt 0x108 := by
  refine ⟨inv_of_check (by rfl), rfl, _, rfl, rfl, rfl, rfl, ?_⟩
  show Config.freeByte 0 ≠ Config.freeByte 0 + 1
  generalize Config.freeByte 0 = b
  revert b
  decide

/-- A codec-stage failure that changes a byte of scratch. -/
theorem witness_ErrorsArePrecise_decompressionFailure :
    let s := atCpc (withPayload (session false true (x8 0) (x8 0) (x8 (Config.freeByte 0 + 1)) (x8 0)) [8, 0, 0, 0, 1]) 0x22
    s.Inv ∧ s.err = false ∧ s.payloadError = none ∧
      ∃ u, step s = .next u ∧ u.err = true ∧ u.byteAt 0x110 ≠ s.byteAt 0x110 := by
  refine ⟨inv_of_check (by rfl), rfl, rfl, _, rfl, rfl, ?_⟩
  show Config.freeByte 0 ≠ Config.freeByte 0 + 1
  generalize Config.freeByte 0 = b
  revert b
  decide

/-- An ITERATE that overflows changes `current` and scratch. -/
theorem witness_ErrorsArePrecise_overflow : (waiting (overflowing fresh) .iterate [.captureAnswer (.ok (x8 0xFF))]).Inv ∧
    (let s := waiting (overflowing fresh) .iterate [.captureAnswer (.ok (x8 0xFF))]
     s.err = false ∧ ends (step s) (fun u => u.err && u.byteAt 0x108 != s.byteAt 0x108 &&
       u.byteAt 0x110 != s.byteAt 0x110) = true) :=
  ⟨inv_of_check (by decide +kernel), by decide +kernel⟩

theorem witness_StartBeginsTheRun : (1 : Word).getLsbD 0 = true ∧ layoutA.busy = false ∧ fresh.busy = true ∧
    (layoutA.withTurns [.hostWrite 0x00 .word 1]).turns = .hostWrite 0x00 .word 1 :: [] := by decide +kernel

theorem witness_CtrlIsAWriteAction : (1 : Word).getLsbD 0 = true ∧ (2 : Word).getLsbD 0 = false ∧ layoutA.busy = false ∧
    fresh.busy = true := by decide +kernel

theorem witness_BusyWritesAreIgnored : fresh.busy = true ∧
    (∀ o ∈ [0x0C, 0x3C], (BitVec.ofNat 8 o).toNat ∈ [0x0C, 0x10, 0x14, 0x1C, 0x20, 0x24, 0x28, 0x2C, 0x30, 0x38, 0x3C]) ∧
    0x40 ≤ (0x40#8).toNat ∧ (0x18#8).toNat = 0x18 ∧ (0x34#8).toNat = 0x34 := by decide +kernel

/-- HALT with DONE_IE, an error with ERR_IE, and the three host writes and the reset that deassert IRQ. -/
theorem witness_IrqFollowsStatusAndEnables :
    ends (exec .halt { fresh with doneIe := true }) (fun u => u.irq) = true ∧
    ends (step { atCpc fresh 0 with errIe := true }) (fun u => u.err && u.irq) = true ∧
    (∀ t ∈ [Turn.hostWrite 0x00 .word 1, .hostWrite 0x04 .word 2, .hostWrite 0x08 .word 0, .reset],
      let s := { layoutA with done := true, doneIe := true, turns := [t] }
      s.irq = true ∧ ends (step s) (fun u => !u.irq) = true) := by decide +kernel

theorem witness_RegisterWritesReadBack : layoutA.busy = false ∧
    (∀ o ∈ [0x08, 0x10, 0x3C],
      (BitVec.ofNat 8 o).toNat ∈ [0x08, 0x0C, 0x10, 0x14, 0x1C, 0x20, 0x24, 0x28, 0x2C, 0x30, 0x38, 0x3C] ∧
        (0x14#8) ≠ BitVec.ofNat 8 o) := by decide +kernel

theorem witness_NarrowAccessesAreIgnored : AccessSize.half ≠ .word ∧ (0x02#8).toNat % 4 ≠ 0 ∧
    (layoutA.withTurns [.hostRead 0x04 .word]).turns = .hostRead 0x04 .word :: [] ∧
    (layoutA.withTurns [.hostWrite 0x10 .half 9]).turns = .hostWrite 0x10 .half 9 :: [] := by decide +kernel

theorem witness_HostMemoryRefusedWhileBusy : fresh.busy = true ∧
    (fresh.withTurns [.hostStore 0x300 1]).turns = .hostStore 0x300 1 :: [] ∧
    (fresh.withTurns [.hostLoad 0x300]).turns = .hostLoad 0x300 :: [] := by decide +kernel

/-- The last byte of memory and the first address above it. -/
theorem witness_HostMemoryWhileIdle : layoutA.busy = false ∧ (0xFFF#32).toNat < layoutA.memSize ∧
    layoutA.memSize ≤ (0x1000#32).toNat ∧ (layoutA.withTurns [.hostStore 0xFFF 1]).turns = .hostStore 0xFFF 1 :: [] ∧
    (layoutA.withTurns [.hostLoad 0x1000]).turns = .hostLoad 0x1000 :: [] := by decide +kernel

theorem witness_ResetGivesTheTable : (busyBoth.withTurns [.reset]).turns = .reset :: [] ∧ layoutA.busy = false := ⟨rfl, rfl⟩

/-- A reset in WAIT_CAPTURE of an ITERATE (V-RST-2), and one in phase RUN with a DIFF at CPC. -/
theorem witness_ResetTouchesOnlyTheAbortedCommand :
    ∀ s ∈ [waiting fresh .iterate [.reset, .captureAnswer .fail],
        (atCpc fresh 0x11).withTurns [.reset], (atCpc fresh 0x12).withTurns [.reset, .engine]],
      s.Inv ∧ s.turns = .reset :: s.turns.tail ∧ ends (step s) (fun u => u.phase == .idle) = true := by
  intro s hs
  refine ⟨inv_of_check ?_, ?_, ?_⟩ <;> revert s <;> decide +kernel

/-- An answer to a withdrawn request that comes in a new wait. -/
theorem witness_ResetTouchesOnlyTheAbortedCommand_late :
    (waiting fresh .capture [.lateAnswer (.ok (x8 1))]).turns = .lateAnswer (.ok (x8 1)) :: [] ∧
    (waiting fresh .capture [.lateAnswer (.ok (x8 1))]).phase = .waitCapture ⟨0x108, 8, .capture⟩ := by decide +kernel

/-- One step by each agent. -/
theorem witness_EveryStepKeepsTheInvariant :
    ∀ s ∈ [atCpc fresh 0x11, waiting fresh .iterate [.captureAnswer (.ok (x8 1))], fresh.withTurns [.hostWrite 0x10 .word 4],
        layoutA.withTurns [.hostStore 0xFFF 1], fresh.withTurns [.reset]],
      s.Inv ∧ ends (step s) (fun _ => true) = true := by
  intro s hs
  refine ⟨inv_of_check ?_, ?_⟩ <;> revert s <;> decide +kernel

/-- V-FET-1's error, V-SEQ-3's, and no error. -/
theorem witness_StatusFieldsAndClearing : ({ layoutA with errCode := .cmdFetchFault } : State).errCode = .cmdFetchFault ∧
    ({ layoutA with errCode := .captureFailure } : State).errCode = .captureFailure ∧ layoutA.errCode = .noError :=
  ⟨rfl, rfl, rfl⟩

theorem witness_StatusInvariantsAreKept : status fresh = 0x00000031 ∧
    ends (step (atCpc fresh 1)) (fun u => status u == 0x00000032) = true := by decide +kernel

theorem witness_ParametersNeverChange : ends (step (atCpc fresh 0x12)) (fun u => u.memSize == 0x1000) = true := by
  decide +kernel

/-- A host access at MEM_SIZE, one while busy, and an answer of seven bytes. -/
theorem witness_InvariantStatesFaultOnlyByHostAccess : (layoutA.withTurns [.hostLoad 0x1000]).Inv ∧
    step (layoutA.withTurns [.hostLoad 0x1000]) = .fault .outsideMemory ∧
    step (fresh.withTurns [.hostLoad 0x300]) = .refused .hostMemoryAccessWhileBusy ∧
    (waiting fresh .capture [.captureAnswer (.ok [1])]).Inv ∧
    step (waiting fresh .capture [.captureAnswer (.ok [1])]) = .refused .captureAnswerLength :=
  ⟨inv_of_check (by decide +kernel), rfl, rfl, inv_of_check (by decide +kernel), rfl⟩

end Sys2Proof.Tests
end

section
/-! PROOFS. STATUS and its invariants (spec 10_state R35), the writers of PREV_SEL (R51), writes to the register block while
busy (R49), and CTRL (R33). -/

namespace Sys2Proof.Machine

/-! ### The invariants of STATUS (R35) -/

/-- R35 read off a STATUS word: BUSY is bit 0, DONE bit 1, ERR bit 2, ERRCODE bits 15:8. -/
def StatusWordConsistent (w : Word) : Prop :=
  (w.getLsbD 0 = true → w.getLsbD 1 = false ∧ w.getLsbD 2 = false) ∧
  ¬(w.getLsbD 1 = true ∧ w.getLsbD 2 = true) ∧
  (w.getLsbD 2 = false → w.extractLsb' 8 8 = 0) ∧ (w.getLsbD 2 = true → w.extractLsb' 8 8 ≠ 0)

theorem State.readReg_status (s : State) : s.readReg 0x04 .word = s.statusWord := rfl

/-- The word that the host reads is consistent exactly when the state's own fields are. -/
theorem State.statusWordConsistent_iff (s : State) :
    StatusWordConsistent (s.readReg 0x04 .word) ↔ s.StatusInv := by
  rw [State.readReg_status, StatusWordConsistent, State.statusWord_busy, State.statusWord_done, State.statusWord_err,
    State.statusWord_errCode, ne_eq, ErrorCode.toBits_eq_zero_iff]
  exact ⟨fun ⟨hbusy, hboth, hno, herr⟩ => ⟨hbusy, hboth, hno, herr⟩,
    fun ⟨hbusy, hboth, hno, herr⟩ => ⟨hbusy, hboth, hno, herr⟩⟩

/-- No end of a run is recorded: DONE, ERR and ERRCODE are all 0. -/
structure State.StatusClear (s : State) : Prop where
  done : s.done = false
  err : s.err = false
  errCode : s.errCode = .noError

theorem State.StatusClear.inv {s : State} (h : s.StatusClear) : s.StatusInv where
  busyClear _ := ⟨h.done, h.err⟩
  notBoth := by simp [h.done]
  noErrorCode _ := h.errCode
  errorCode := by simp [h.err]

/-- While busy, R35 leaves the three fields no other value. -/
theorem State.StatusInv.clear_of_busy {s : State} (h : s.StatusInv) (hb : s.busy = true) : s.StatusClear :=
  have ⟨hdone, herr⟩ := h.busyClear hb
  ⟨hdone, herr, h.noErrorCode herr⟩

theorem State.busy_of_run {s : State} (h : s.phase = .run) : s.busy = true := by simp [State.busy, h]

theorem State.busy_of_waitCapture {s : State} {req : CaptureRequest} (h : s.phase = .waitCapture req) :
    s.busy = true := by simp [State.busy, h]

/-- An error stop (R241) of a run that had recorded no end meets R35. -/
theorem State.StatusInv.of_errorStop {u : State} (hphase : u.phase = .idle) (hdone : u.done = false)
    (herr : u.err = true) (hcode : u.errCode ≠ .noError) : u.StatusInv where
  busyClear hb := by simp [u.busy_eq_false_iff.2 hphase] at hb
  notBoth := by simp [hdone]
  noErrorCode h := by simp [herr] at h
  errorCode _ := hcode

/-- HALT's stop (R133) of a run that had recorded no end meets R35. -/
theorem State.StatusInv.of_haltStop {u : State} (hphase : u.phase = .idle) (herr : u.err = false)
    (hcode : u.errCode = .noError) : u.StatusInv where
  busyClear hb := by simp [u.busy_eq_false_iff.2 hphase] at hb
  notBoth := by simp [herr]
  noErrorCode _ := hcode
  errorCode h := by simp [herr] at h

/-- R35 speaks of the phase, DONE, ERR and ERRCODE alone. -/
theorem State.StatusInv.congr {s u : State} (h : s.StatusInv) (hphase : u.phase = s.phase) (hdone : u.done = s.done)
    (herr : u.err = s.err) (hcode : u.errCode = s.errCode) : u.StatusInv where
  busyClear := by simpa [State.busy, hphase, hdone, herr] using h.busyClear
  notBoth := by simpa [hdone, herr] using h.notBoth
  noErrorCode := by simpa [herr, hcode] using h.noErrorCode
  errorCode := by simpa [herr, hcode] using h.errorCode

theorem State.StatusInv.withTurns {s : State} (h : s.StatusInv) (ts : List Turn) : (s.withTurns ts).StatusInv :=
  h.congr rfl rfl rfl rfl

/-- Write-1-to-clear takes ERRCODE along with ERR (R34). -/
theorem State.StatusInv.writeStatus {s : State} (h : s.StatusInv) (v : Word) : (s.writeStatus v).StatusInv where
  busyClear hb := by
    have ⟨hdone, herr⟩ := h.busyClear hb
    simp [hdone, herr]
  notBoth := by
    have := h.notBoth
    simp only [State.writeStatus_done, State.writeStatus_err, Bool.and_eq_true]
    tauto
  noErrorCode := by
    rw [State.writeStatus_err, State.writeStatus_errCode]
    cases v.getLsbD 2 with
    | true => simp
    | false => simpa using h.noErrorCode
  errorCode := by
    rw [State.writeStatus_err, State.writeStatus_errCode]
    cases v.getLsbD 2 with
    | true => simp
    | false => simpa using h.errorCode

theorem State.StatusInv.writeReg {s : State} (h : s.StatusInv) (offset : BitVec 8) (size : AccessSize) (v : Word) :
    (s.writeReg offset size v).StatusInv := by
  rcases s.writeReg_cases offset size v with hw | ⟨-, hw⟩ | ⟨-, -, -, -, hw⟩ | ⟨-, -, hw⟩ | ⟨-, -, hw⟩ | ⟨-, hw⟩ |
    ⟨-, regs, hw⟩ <;> rw [hw]
  · exact h
  · exact h.congr rfl rfl rfl rfl
  · exact State.StatusClear.inv ⟨rfl, rfl, rfl⟩
  · exact h.writeStatus v
  · exact h.congr rfl rfl rfl rfl
  · exact h.congr rfl rfl rfl rfl
  · exact h.congr rfl rfl rfl rfl

/-- A command begins with no end recorded; it records at most its own. -/
theorem CommandEffect.statusInv {s u : State} {i : Instr} (h : CommandEffect s i u) (hs : s.StatusClear) :
    u.StatusInv := by
  cases h with
  | halt => exact .of_haltStop rfl hs.err hs.errCode
  | setup t r => exact State.StatusClear.inv ⟨hs.done, hs.err, hs.errCode⟩
  | done _ _ m d p z hu =>
    subst hu
    exact State.StatusClear.inv ⟨hs.done, hs.err, hs.errCode⟩
  | error _ e m d he => exact .of_errorStop rfl hs.done rfl he
  | wait => exact State.StatusClear.inv ⟨hs.done, hs.err, hs.errCode⟩

theorem AnswerEffect.statusInv {s u : State} {req : CaptureRequest} (h : AnswerEffect s req u) (hs : s.StatusClear) :
    u.StatusInv := by
  cases h with
  | done m z p => exact State.StatusClear.inv ⟨hs.done, hs.err, hs.errCode⟩
  | error e m d he => exact .of_errorStop rfl hs.done rfl he

theorem EngineEffect.statusInv {s u : State} (h : EngineEffect s u) (hs : s.StatusInv) : u.StatusInv := by
  cases h with
  | none => exact hs
  | fetch e hrun _ he =>
    have hclear := hs.clear_of_busy (State.busy_of_run hrun)
    exact .of_errorStop rfl hclear.done rfl (by rcases he with rfl | rfl <;> simp)
  | exec i _ hrun _ _ heff => exact heff.statusInv (hs.clear_of_busy (State.busy_of_run hrun))

theorem answerCapture_statusInv {s u : State} {a : CaptureAnswer} (h : answerCapture a s = .next u)
    (hs : s.StatusInv) : u.StatusInv := by
  obtain ⟨req, hwait, hans⟩ | ⟨-, rfl⟩ := answerCapture_next h
  · exact (answer_effect hans).statusInv (hs.clear_of_busy (State.busy_of_waitCapture hwait))
  · exact hs

/-- Every step of every agent keeps R35. -/
theorem step_statusInv {s u : State} (h : step s = .next u) (hs : s.StatusInv) : u.StatusInv := by
  obtain ⟨rest, ⟨-, heng⟩ | ⟨offset, size, v, -, rfl⟩ | ⟨-, rfl⟩ | ⟨addr, b, -, -, -, rfl⟩ | ⟨a, -, hans⟩ | ⟨-, rfl⟩⟩ :=
    step_next h
  · exact (engine_effect heng).statusInv (hs.withTurns rest)
  · exact (hs.withTurns rest).writeReg offset size v
  · exact hs.withTurns rest
  · exact hs.congr rfl rfl rfl rfl
  · exact answerCapture_statusInv hans (hs.withTurns rest)
  · exact State.StatusClear.inv ⟨rfl, rfl, rfl⟩

/-- Settles O58: R35 on the STATUS word is `State.StatusInv`, which holds at reset and which every step keeps. -/
theorem statusInvariantsAreKept : Obligations.StatusInvariantsAreKept := by
  unfold Obligations.StatusInvariantsAreKept
  refine ⟨(State.statusWordConsistent_iff _).2 (State.StatusClear.inv ⟨rfl, rfl, rfl⟩), fun s t hs h => ?_⟩
  exact t.statusWordConsistent_iff.2 (step_statusInv h (s.statusWordConsistent_iff.1 hs))

/-! ### PREV_SEL (R51) -/

/-- Of the commands only SETUP with T = 1 and SWAP write PREV_SEL in their own step. -/
theorem CommandEffect.prevSel {s u : State} {i : Instr} (h : CommandEffect s i u) :
    u.prevSel = s.prevSel ∨ (∃ r, i = .setup true r ∧ u.prevSel = false) ∨ (i = .swap ∧ u.prevSel = !s.prevSel) := by
  cases h with
  | halt => exact .inl rfl
  | setup t r =>
    cases t with
    | true => exact .inr (.inl ⟨r, rfl, rfl⟩)
    | false => exact .inl rfl
  | done _ _ m d p z hu _ hp =>
    subst hu
    exact hp.imp id .inr
  | error => exact .inl rfl
  | wait => exact .inl rfl

/-- An answer inverts PREV_SEL only where it ends an ITERATE. -/
theorem AnswerEffect.prevSel {s u : State} {req : CaptureRequest} (h : AnswerEffect s req u) :
    u.prevSel = s.prevSel ∨ (req.command = .iterate ∧ u.prevSel = !s.prevSel) := by
  cases h with
  | done m z p hp => exact hp.imp And.left id
  | error => exact .inl rfl

theorem EngineEffect.prevSel {s u : State} (h : EngineEffect s u) :
    u.prevSel = s.prevSel ∨
      (s.phase = .run ∧ (∃ r, s.fetch = .ok (.setup true r)) ∧ u.prevSel = false) ∨
      (s.phase = .run ∧ s.fetch = .ok .swap ∧ u.prevSel = !s.prevSel) := by
  cases h with
  | none => exact .inl rfl
  | fetch => exact .inl rfl
  | exec i _ hrun hfetch _ heff =>
    obtain hkeep | ⟨r, rfl, hsel⟩ | ⟨rfl, hsel⟩ := heff.prevSel
    · exact .inl hkeep
    · exact .inr (.inl ⟨hrun, ⟨r, hfetch⟩, hsel⟩)
    · exact .inr (.inr ⟨hrun, hfetch, hsel⟩)

theorem answerCapture_prevSel {s u : State} {a : CaptureAnswer} (h : answerCapture a s = .next u) :
    u.prevSel = s.prevSel ∨ ∃ req, s.phase = .waitCapture req ∧ req.command = .iterate ∧ u.prevSel = !s.prevSel := by
  obtain ⟨req, hwait, hans⟩ | ⟨-, rfl⟩ := answerCapture_next h
  · exact (answer_effect hans).prevSel.imp id fun ⟨hcmd, hsel⟩ => ⟨req, hwait, hcmd, hsel⟩
  · exact .inl rfl

@[simp] theorem State.writeReg_prevSel (s : State) (offset : BitVec 8) (size : AccessSize) (v : Word) :
    (s.writeReg offset size v).prevSel = s.prevSel := by
  rcases s.writeReg_cases offset size v with hw | ⟨-, hw⟩ | ⟨-, -, -, -, hw⟩ | ⟨-, -, hw⟩ | ⟨-, -, hw⟩ | ⟨-, hw⟩ |
    ⟨-, regs, hw⟩ <;> rw [hw] <;> rfl

/-- Settles O17: each turn that `step_next` lists either keeps PREV_SEL or is one of R51's writers. -/
theorem prevSelSelectsAndItsWriters : Obligations.PrevSelSelectsAndItsWriters := by
  unfold Obligations.PrevSelSelectsAndItsWriters
  refine ⟨fun s => ?_, rfl, fun s u h hne => ?_⟩
  · constructor <;> intro hsel <;> simp [State.prevSlot, State.curSlot, hsel]
  obtain ⟨rest, ⟨hturn, heng⟩ | ⟨offset, size, v, -, rfl⟩ | ⟨-, rfl⟩ | ⟨addr, b, -, -, -, rfl⟩ | ⟨a, hturn, hans⟩ |
    ⟨hturn, rfl⟩⟩ := step_next h
  · have hmoves : s.engineMoves := s.engineMoves_iff.2 ⟨rest, hturn⟩
    obtain hkeep | ⟨hrun, hfetch, hsel⟩ | ⟨hrun, hfetch, hsel⟩ := (engine_effect heng).prevSel
    · exact absurd hkeep hne
    · exact .inl ⟨hrun, hmoves, hfetch, hsel⟩
    · exact .inr (.inl ⟨hrun, hmoves, hfetch, hsel⟩)
  · exact absurd (State.writeReg_prevSel _ offset size v) hne
  · exact absurd rfl hne
  · exact absurd rfl hne
  · obtain hkeep | ⟨req, hwait, hcmd, hsel⟩ := answerCapture_prevSel hans
    · exact absurd hkeep hne
    · exact .inr (.inr (.inl ⟨req, a, rest, hwait, hcmd, hturn, hsel⟩))
  · exact .inr (.inr (.inr ⟨⟨rest, hturn⟩, rfl⟩))

/-! ### Writes to the register block (R32, R33, R49) -/

/-- Every register of the block lies at a multiple of 4 (R32). -/
theorem registerAt_aligned {offset : BitVec 8} {g : Register} (h : registerAt offset = some g) :
    offset.toNat % 4 = 0 := by
  revert offset g
  decide

/-- A word write at a register's offset is a write to that register. -/
theorem State.writeReg_of_registerAt (s : State) {offset : BitVec 8} {g : Register} (v : Word)
    (h : registerAt offset = some g) : s.writeReg offset .word v = s.writeRegister v g := by
  have hfull : fullAccess offset .word = true := by simp [fullAccess, registerAt_aligned h]
  rw [State.writeReg, if_pos hfull, h]

/-- A write to a reserved offset does nothing (R32). -/
theorem State.writeReg_reserved (s : State) {offset : BitVec 8} (size : AccessSize) (v : Word)
    (h : registerAt offset = none) : s.writeReg offset size v = s := by
  rw [State.writeReg, h]
  exact ite_self s

/-- The block ends at 0x40 (R32). -/
theorem registerAt_eq_none {offset : BitVec 8} (h : 0x40 ≤ offset.toNat) : registerAt offset = none := by
  revert offset
  decide

theorem State.writeIdle_busy {s : State} (hb : s.busy = true) (w : State) : s.writeIdle w = s.ignoreWrite := if_pos hb

theorem State.writeIdle_idle {s : State} (hb : s.busy = false) (w : State) : s.writeIdle w = w := by
  simp [State.writeIdle, hb]

/-- CPC and the configuration registers, whose writes are ignored while busy (R49). -/
def Register.writableOnlyIdle : Register → Bool
  | .cpc | .width | .height | .slot0Base | .slot1Base | .scratchBase | .reconBase | .txcfBase | .txcfCap | .rxcfBase
  | .rxcfSize => true
  | .ctrl | .status | .irqEn | .frameLen | .txcfSize => false

theorem State.writeRegister_busy {s : State} {g : Register} (hb : s.busy = true) (hg : g.writableOnlyIdle = true)
    (v : Word) : s.writeRegister v g = s.ignoreWrite := by
  cases g
  case ctrl | status | irqEn | frameLen | txcfSize => cases hg
  all_goals exact State.writeIdle_busy hb _

/-- The offsets of CPC and of the configuration registers (R32). -/
theorem registerAt_writableOnlyIdle {offset : BitVec 8}
    (h : offset.toNat ∈ [0x0C, 0x10, 0x14, 0x1C, 0x20, 0x24, 0x28, 0x2C, 0x30, 0x38, 0x3C]) :
    ∃ g, registerAt offset = some g ∧ g.writableOnlyIdle = true := by
  have key : ∀ offset : BitVec 8, offset.toNat ∈ [0x0C, 0x10, 0x14, 0x1C, 0x20, 0x24, 0x28, 0x2C, 0x30, 0x38, 0x3C] →
      (registerAt offset).any Register.writableOnlyIdle = true := by decide
  simpa [Option.any_eq_true] using key offset h

/-- START while busy is ignored, with WIGN (R33, R49). -/
theorem State.writeCtrl_busy {s : State} {v : Word} (hv : v.getLsbD 0 = true) (hb : s.busy = true) :
    s.writeCtrl v = s.ignoreWrite := by
  rw [State.writeCtrl, if_pos hv, State.writeIdle_busy hb]

/-- START while idle (R130). -/
theorem State.writeCtrl_idle {s : State} {v : Word} (hv : v.getLsbD 0 = true) (hb : s.busy = false) :
    s.writeCtrl v = s.startRun := by
  rw [State.writeCtrl, if_pos hv, State.writeIdle_idle hb]

theorem State.writeCtrl_of_bit0_eq_false (s : State) {v : Word} (hv : v.getLsbD 0 = false) : s.writeCtrl v = s :=
  if_neg (by rw [hv]; exact Bool.false_ne_true)

theorem State.writeReg_ctrl (s : State) (v : Word) : s.writeReg 0x00 .word v = s.writeCtrl v :=
  s.writeReg_of_registerAt v (g := .ctrl) rfl

/-- Settles O47: each group of offsets by the register that stands there. -/
theorem busyWritesAreIgnored : Obligations.BusyWritesAreIgnored := by
  unfold Obligations.BusyWritesAreIgnored
  intro s offset v
  refine ⟨fun hb hoff => ?_, fun hb hv => ?_, fun hoff => ?_, s.writeReg_of_registerAt v (g := .irqEn) rfl,
    s.writeReg_of_registerAt v (g := .status) rfl⟩
  · obtain ⟨g, hreg, hg⟩ := registerAt_writableOnlyIdle hoff
    rw [s.writeReg_of_registerAt v hreg, State.writeRegister_busy hb hg, State.ignoreWrite]
  · rw [State.writeReg_ctrl, State.writeCtrl_busy hv hb, State.ignoreWrite]
  · obtain hframeLen | htxcfSize | hreserved := hoff
    · obtain rfl : offset = 0x18 := BitVec.eq_of_toNat_eq hframeLen
      exact s.writeReg_of_registerAt v (g := .frameLen) rfl
    · obtain rfl : offset = 0x34 := BitVec.eq_of_toNat_eq htxcfSize
      exact s.writeReg_of_registerAt v (g := .txcfSize) rfl
    · exact s.writeReg_reserved .word v (registerAt_eq_none hreserved)

/-- Settles O46: CTRL has no stored value, and its write is `State.writeCtrl`. -/
theorem ctrlIsAWriteAction : Obligations.CtrlIsAWriteAction := by
  unfold Obligations.CtrlIsAWriteAction
  intro s v
  rw [State.writeReg_ctrl]
  exact ⟨rfl, rfl, State.writeCtrl_idle, State.writeCtrl_busy, s.writeCtrl_of_bit0_eq_false⟩

end Sys2Proof.Machine
end

section
/-! PROOFS. Host accesses to engine memory while busy (spec 20_memory R83). -/

namespace Sys2Proof.Machine

@[simp] theorem State.withTurns_busy (s : State) (ts : List Turn) : (s.withTurns ts).busy = s.busy := rfl

/-- The first turn to come is the one that the step takes (R14; entry 6). -/
theorem step_turn {s : State} {t : Turn} {rest : List Turn} (h : s.turns = t :: rest) :
    step s = takeTurn t (s.withTurns rest) := by
  rw [step, nextTurn, h]

/-- While busy the access is refused at any address, in memory or not, and nothing after it runs (R83). -/
theorem hostMemory_busy {s : State} (hb : s.busy = true) (addr : Word) (k : Result) :
    hostMemory s addr k = .refused .hostMemoryAccessWhileBusy := if_pos hb

/-- Settles O52: a store and a load turn are both a `hostMemory` access, and taking the turn leaves BUSY as it was. -/
theorem hostMemoryRefusedWhileBusy : Obligations.HostMemoryRefusedWhileBusy := by
  unfold Obligations.HostMemoryRefusedWhileBusy
  intro s addr b rest hbusy hturn
  have hbusyRest : (s.withTurns rest).busy = true := by rw [State.withTurns_busy, hbusy]
  obtain hstore | hload := hturn
  · rw [step_turn hstore, takeTurn, hostStore, hostMemory_busy hbusyRest]
  · rw [step_turn hload, takeTurn, hostLoad, hostMemory_busy hbusyRest]

end Sys2Proof.Machine
end

section
/-! PROOFS. Command words (spec 30_encoding R100, R102): the words that decode are the encodings of the well-formed commands;
and the engine step by what its fetch answers (R101). -/

namespace Sys2Proof

/-! ### Encoding and decoding of one word (R100, R102) -/

/-- The bits 9:8 of R102 case 4 are R and T. -/
theorem sideBits_eq (w : Word) :
    w.extractLsb' 8 2 = BitVec.ofBool (w.getLsbD 9) ++ BitVec.ofBool (w.getLsbD 8) := by
  apply BitVec.eq_of_getLsbD_eq
  intro k hk
  simp only [BitVec.getLsbD_append, BitVec.getLsbD_extractLsb', BitVec.getLsbD_ofBool]
  obtain rfl | rfl : k = 0 ∨ k = 1 := by omega
  · simp
  · simp

theorem sideBits_eq_zero {w : Word} (h : (w.getLsbD 8 || w.getLsbD 9) = false) : w.extractLsb' 8 2 = 0 := by
  obtain ⟨h8, h9⟩ := Bool.or_eq_false_iff.1 h
  rw [sideBits_eq, h8, h9]
  rfl

/-- The upper 24 bits are RES and the two side bits (R100). -/
theorem upperBits_eq (w : Word) : w.extractLsb' 8 24 = w.extractLsb' 10 22 ++ w.extractLsb' 8 2 :=
  (BitVec.extractLsb'_append_extractLsb'_eq_extractLsb' (start₁ := 8) (len₁ := 2) (len₂ := 22) rfl).symm

/-- What a word with SETUP's opcode decodes to (R102, R105). -/
theorem decodeWord_of_setupOpcode {w : Word} (h : w.extractLsb' 0 8 = setupOpcode) :
    decodeWord w =
      if w.extractLsb' 10 22 ≠ 0 then .error .setupReservedBits
      else if w.extractLsb' 8 2 = 0 then .error .setupNoSide
      else .ok (.setup (w.getLsbD 8) (w.getLsbD 9)) := if_pos h

theorem decodeWord_of_plainCommand {w : Word} {i : Instr} (h : plainCommand (w.extractLsb' 0 8) = some i) :
    decodeWord w = if w.extractLsb' 8 24 ≠ 0 then .error .reservedBits else .ok i := by
  obtain ⟨-, -, -, -, hne⟩ := plainCommand_some h
  rw [decodeWord, if_neg hne, h]

theorem decodeWord_of_plainCommand_eq_none {w : Word} (hne : w.extractLsb' 0 8 ≠ setupOpcode)
    (h : plainCommand (w.extractLsb' 0 8) = none) : decodeWord w = .error .unknownOpcode := by
  rw [decodeWord, if_neg hne, h]

/-- The upper 24 bits of a command's word hold R and T, the lower 8 its opcode (R100). -/
theorem encodeWord_eq (i : Instr) :
    encodeWord i = (0#22 ++ (BitVec.ofBool i.bitR ++ BitVec.ofBool i.bitT)) ++ i.opcode := by
  rw [encodeWord]
  cases i.bitR <;> cases i.bitT <;> rfl

/-- A command that has an encoding is decoded from it (R100, R103). -/
theorem decodeWord_encodeWord {i : Instr} (h : i.wellFormed = true) : decodeWord (encodeWord i) = .ok i := by
  cases i with
  | setup t r =>
    revert t r
    decide
  | halt | nop | capture | diff | compress | swap | iterate | decompress | merge | receive => rfl

/-- A word that decodes is the encoding of the command it decodes to (R102). -/
theorem encodeWord_of_decodeWord {w : Word} {i : Instr} (h : decodeWord w = .ok i) :
    i.wellFormed = true ∧ encodeWord i = w := by
  by_cases hset : w.extractLsb' 0 8 = setupOpcode
  · rw [decodeWord_of_setupOpcode hset] at h
    split_ifs at h with hres hside
    obtain rfl := Except.ok.inj h
    refine ⟨Bool.of_not_eq_false (mt sideBits_eq_zero hside), ?_⟩
    have hupper : w.extractLsb' 8 24 = 0#22 ++ (BitVec.ofBool (w.getLsbD 9) ++ BitVec.ofBool (w.getLsbD 8)) := by
      rw [upperBits_eq, sideBits_eq, not_not.1 hres]
      rfl
    calc encodeWord (.setup (w.getLsbD 8) (w.getLsbD 9))
      _ = w.extractLsb' 8 24 ++ w.extractLsb' 0 8 := by rw [encodeWord_eq, hupper, hset]; rfl
      _ = w := word_of_opcode w
  · cases hplain : plainCommand (w.extractLsb' 0 8) with
    | none =>
      rw [decodeWord_of_plainCommand_eq_none hset hplain] at h
      cases h
    | some p =>
      rw [decodeWord_of_plainCommand hplain] at h
      split_ifs at h with hres
      obtain rfl := Except.ok.inj h
      obtain ⟨hop, ht, hr, hwf, -⟩ := plainCommand_some hplain
      refine ⟨hwf, ?_⟩
      calc encodeWord p
        _ = w.extractLsb' 8 24 ++ w.extractLsb' 0 8 := by rw [encodeWord_eq, ht, hr, hop, not_not.1 hres]; rfl
        _ = w := word_of_opcode w

/-- The four cases of R102. -/
def IllegalWord (w : Word) : Prop :=
  (w.extractLsb' 0 8 ∉ [0x01, 0x02, 0x03, 0x10, 0x11, 0x12, 0x13, 0x14, 0x20, 0x21, 0x22]) ∨
    (w.extractLsb' 0 8 ≠ 0x03 ∧ w.extractLsb' 8 24 ≠ 0) ∨ (w.extractLsb' 0 8 = 0x03 ∧ w.extractLsb' 10 22 ≠ 0) ∨
    (w.extractLsb' 0 8 = 0x03 ∧ w.extractLsb' 8 2 = 0)

/-- The opcodes of R103 are SETUP's and those that `plainCommand` knows. -/
theorem mem_opcodes_iff (op : BitVec 8) :
    op ∈ [0x01, 0x02, 0x03, 0x10, 0x11, 0x12, 0x13, 0x14, 0x20, 0x21, 0x22] ↔
      op = setupOpcode ∨ (plainCommand op).isSome = true := by
  revert op
  decide +kernel

/-- The decoder rejects exactly the words of R102's four cases. -/
theorem illegalWord_iff (w : Word) : IllegalWord w ↔ ∃ e, decodeWord w = .error e := by
  rw [IllegalWord, mem_opcodes_iff, show (0x03 : BitVec 8) = setupOpcode from rfl]
  by_cases hset : w.extractLsb' 0 8 = setupOpcode
  · rw [decodeWord_of_setupOpcode hset]
    split_ifs <;> simp_all
  · cases hplain : plainCommand (w.extractLsb' 0 8) with
    | none => simp [decodeWord_of_plainCommand_eq_none hset hplain, hset]
    | some i =>
      rw [decodeWord_of_plainCommand hplain]
      split_ifs <;> simp_all

/-! ### The engine step by what its fetch answers (R101) -/

namespace Machine

theorem engineStep_of_fetch {s : State} {i : Instr} (hrun : s.phase = .run) (h : s.fetch = .ok i) :
    engineStep s = exec i s := by
  rw [engineStep, hrun]
  simp only [h]

theorem engineStep_of_fetch_error {s : State} {e : ErrorCode} (hrun : s.phase = .run) (h : s.fetch = .error e) :
    engineStep s = .next (s.raiseError e) := by
  rw [engineStep, hrun]
  simp only [h, raise_eq]

/-- Settles O4: the engine's turn is `engineStep`, and `State.fetch_bad` and `State.fetch_of` say what it fetches. -/
theorem stepRunsTheCommandAtCpc : Obligations.StepRunsTheCommandAtCpc := by
  unfold Obligations.StepRunsTheCommandAtCpc
  intro s rest hrun hturn
  rw [step_engine hturn]
  refine ⟨fun hbad => ?_, fun i haligned hin hdec => ?_⟩
  · exact engineStep_of_fetch_error (s := s.withTurns rest) hrun (State.fetch_bad hbad)
  · have hfetch : s.fetch = .ok i := by rw [State.fetch_of haligned hin, hdec]
    exact engineStep_of_fetch (s := s.withTurns rest) hrun hfetch

/-- Settles O3: the illegal words are those the decoder rejects, and it is inverse to the encoder on all others. -/
theorem everyWordIsOneCommandOrIllegal : Obligations.EveryWordIsOneCommandOrIllegal := by
  unfold Obligations.EveryWordIsOneCommandOrIllegal
  intro w
  change (IllegalWord w → _) ∧ (¬ IllegalWord w → _)
  rw [illegalWord_iff]
  constructor
  · rintro ⟨e, herr⟩
    refine ⟨?_, fun s hrun hmoves haligned hin hword => ?_⟩
    · rintro i hwf rfl
      rw [decodeWord_encodeWord hwf] at herr
      cases herr
    · have hfetch : s.fetch = .error .illegalCmd := by
        rw [State.fetch_of haligned hin, hword, BitVec.ofNat_toNat, BitVec.setWidth_eq, herr]
      rw [step_engineMoves hmoves]
      exact engineStep_of_fetch_error (s := s.withTurns s.turns.tail) hrun hfetch
  · intro hlegal
    cases hdec : decodeWord w with
    | error e => exact absurd ⟨e, hdec⟩ hlegal
    | ok i =>
      obtain ⟨hwf, henc⟩ := encodeWord_of_decodeWord hdec
      refine ⟨i, ⟨hwf, henc, rfl⟩, ?_⟩
      rintro j hj rfl
      exact Except.ok.inj ((decodeWord_encodeWord hj).symm.trans hdec)

end Machine

end Sys2Proof
end

section
/-! PROOFS. Session control (spec 40_session_control): HALT (R133), NOP (R134), START (R130), SETUP's checks in their order
(R135), what a SETUP writes (R136), and a SETUP that fails (R139). -/

namespace Sys2Proof.Machine

/-! ### HALT, NOP and START (R130, R133, R134) -/

theorem exec_halt (s : State) : exec .halt s = .next { s.advance with phase := .idle, done := true } := rfl

theorem exec_nop (s : State) : exec .nop s = .next s.advance := rfl

/-- Settles O9: HALT leaves the engine idle, where a write of START restarts it. -/
theorem haltStopsTheSequencer : Obligations.HaltStopsTheSequencer := by
  unfold Obligations.HaltStopsTheSequencer
  refine ⟨rfl, fun s => ⟨_, exec_halt s, rfl, rfl, fun htop => ?_, ?_⟩⟩
  · rw [State.advance_cpc, htop]
    rfl
  · rw [State.writeReg_ctrl, State.writeCtrl_idle rfl rfl]
    rfl

/-- Bit 8 is reserved in every command but SETUP (R102 case 2, R134). -/
theorem decodeWord_nop_reservedBit : decodeWord 0x00000102 = .error .reservedBits := rfl

/-- Settles O10: NOP completes, and `decodeWord` rejects 0x00000102. -/
theorem nopOnlyAdvances : Obligations.NopOnlyAdvances := by
  unfold Obligations.NopOnlyAdvances
  refine ⟨rfl, fun i hdec => ?_, exec_nop⟩
  rw [decodeWord_nop_reservedBit] at hdec
  cases hdec

/-- A host's turn that writes CTRL (R14, R33). -/
theorem step_writeCtrl {s : State} {v : Word} {rest : List Turn} (h : s.turns = .hostWrite 0x00 .word v :: rest) :
    step s = .next ((s.withTurns rest).writeCtrl v) := by
  rw [step_turn h, takeTurn, State.writeReg_ctrl]

/-- Settles O45: the turn is a write to CTRL, taken as `State.writeCtrl` has it while idle and while busy. -/
theorem startBeginsTheRun : Obligations.StartBeginsTheRun := by
  unfold Obligations.StartBeginsTheRun
  intro s v rest hstart hturn
  rw [step_writeCtrl hturn]
  refine ⟨fun hidle => ⟨(s.withTurns rest).startRun, ?_, rfl, ?_⟩, fun hbusy => ?_⟩
  · rw [State.writeCtrl_idle (s := s.withTurns rest) hstart hidle]
  · rw [State.readReg_status, State.statusWord_busy]
    rfl
  · rw [State.writeCtrl_busy (s := s.withTurns rest) hstart hbusy]
    rfl

/-! ### SETUP's checks (R135) -/

/-- Two ranges overlap exactly when they share an address (R12). -/
theorem Range.overlaps_iff_exists (q r : Range) : q.overlaps r = true ↔ ∃ a, q.has a = true ∧ r.has a = true := by
  simp only [Range.overlaps, Range.has, Bool.and_eq_true, decide_eq_true_eq]
  constructor
  · intro h
    exact ⟨max q.base r.base, by omega⟩
  · rintro ⟨a, h⟩
    omega

theorem pairwiseDisjoint_iff_noSharedAddress (rs : List Range) :
    pairwiseDisjoint rs = true ↔ rs.Pairwise fun q p => ¬∃ a, q.has a = true ∧ p.has a = true := by
  simp only [pairwiseDisjoint_iff, ← Range.overlaps_iff_exists, Bool.not_eq_true]

/-- A check of R135 on the sizes fails: the geometry, or the TXCF capacity. -/
def State.BadSize (s : State) (t : Bool) : Prop :=
  (s.regs.width.toNat = 0 ∨ s.regs.height.toNat = 0 ∨ s.regs.width.toNat % 2 ≠ 0) ∨
    (t = true ∧ s.regs.txcfCap.toNat < 4 + s.codec.bound s.setupLen)

/-- A check of R135 on where the buffers lie fails: alignment, memory, or overlap. -/
def State.BadPlacement (s : State) (t r : Bool) : Prop :=
  (∃ b ∈ s.setupBases t r, b.toNat % 8 ≠ 0) ∨ (∃ q ∈ s.setupRanges t r, ¬q.base + q.len ≤ s.memSize) ∨
    ¬(s.setupRanges t r).Pairwise fun q p => ¬∃ a, q.has a = true ∧ p.has a = true

theorem State.badSize_iff (s : State) (t : Bool) :
    s.BadSize t ↔ s.badGeometry = true ∨ s.badCapacity t = true := by
  simp [State.BadSize, State.badGeometry, State.badCapacity, or_assoc]

theorem State.badPlacement_iff (s : State) (t r : Bool) :
    s.BadPlacement t r ↔ (s.setupBases t r).any (fun b => b.toNat % 8 != 0) = true ∨
      (s.setupRanges t r).any (fun q => !s.inMemory q) = true ∨ (!pairwiseDisjoint (s.setupRanges t r)) = true := by
  rw [State.BadPlacement, ← pairwiseDisjoint_iff_noSharedAddress]
  simp [State.inMemory]

theorem State.setupError_of_badSize {s : State} {t : Bool} (r : Bool) (h : s.BadSize t) :
    s.setupError t r = some .bufferSizeMismatch := by
  rw [State.badSize_iff] at h
  unfold State.setupError
  split_ifs with hgeometry hcapacity
  · rfl
  · rfl
  all_goals exact absurd h (not_or.2 ⟨hgeometry, hcapacity⟩)

theorem State.setupError_of_badPlacement {s : State} {t r : Bool} (hsize : ¬s.BadSize t) (h : s.BadPlacement t r) :
    s.setupError t r = some .bufferRange := by
  rw [State.badSize_iff, not_or] at hsize
  rw [State.badPlacement_iff] at h
  unfold State.setupError
  rw [if_neg hsize.1, if_neg hsize.2]
  split_ifs with halign hmem hdisjoint
  · rfl
  · rfl
  · rfl
  · exact absurd h (not_or.2 ⟨halign, not_or.2 ⟨hmem, hdisjoint⟩⟩)

theorem State.setupError_eq_none {s : State} {t r : Bool} (hsize : ¬s.BadSize t) (h : ¬s.BadPlacement t r) :
    s.setupError t r = none := by
  rw [State.badSize_iff, not_or] at hsize
  rw [State.badPlacement_iff, not_or, not_or] at h
  obtain ⟨halign, hmem, hdisjoint⟩ := h
  unfold State.setupError
  rw [if_neg hsize.1, if_neg hsize.2, if_neg halign, if_neg hmem, if_neg hdisjoint]

/-- Settles O11: `State.BadSize` and `State.BadPlacement` are R135's checks, and `setupError` follows them in order. -/
theorem setupChecksInOrder : Obligations.SetupChecksInOrder := by
  unfold Obligations.SetupChecksInOrder
  intro t r s hside
  change (s.BadSize t → _) ∧ (¬s.BadSize t → s.BadPlacement t r → _) ∧ (¬s.BadSize t → ¬s.BadPlacement t r → _)
  refine ⟨fun hsize => ?_, fun hsize hplace => ?_, fun hsize hplace => ?_⟩
  · exact execSetup_error hside (State.setupError_of_badSize r hsize)
  · exact execSetup_error hside (State.setupError_of_badPlacement hsize hplace)
  · have hnone := State.setupError_eq_none hsize hplace
    exact ⟨hnone, _, execSetup_of hside hnone, rfl, rfl, rfl⟩

/-- Settles O13: of the three ends that `execSetup_next` lists, two are an error stop and the third keeps ERR. -/
theorem failedSetupChangesNothing : Obligations.FailedSetupChangesNothing := by
  unfold Obligations.FailedSetupChangesNothing
  intro t r s u h hclear herr
  obtain ⟨-, rfl⟩ | ⟨-, e, hcheck, rfl⟩ | ⟨-, -, rfl⟩ := execSetup_next h
  · exact ⟨rfl, .inl rfl⟩
  · exact ⟨rfl, .inr (State.setupError_code hcheck)⟩
  · rw [State.advance_err, State.setupSession_err, hclear] at herr
    cases herr

/-! ### Several writes, one after the other -/

/-- `WriteBytes` of each entry of the list, in order (R11). -/
def State.writeAll (s : State) : List (Nat × List Byte) → State
  | [] => s
  | w :: ws => (s.writeBytes w.1 w.2).writeAll ws

/-- Bytes that no write of the list touches read as before. -/
theorem State.readBytes_writeAll_other {s : State} {a n : Nat} {ws : List (Nat × List Byte)}
    (h : ∀ w ∈ ws, a + n ≤ w.1 ∨ w.1 + w.2.length ≤ a) : (s.writeAll ws).readBytes a n = s.readBytes a n := by
  induction ws generalizing s with
  | nil => rfl
  | cons w ws ih =>
    obtain ⟨hw, hws⟩ := List.forall_mem_cons.1 h
    rw [State.writeAll, ih hws, State.readBytes_writeBytes_other s hw]

theorem State.byteAt_writeAll_other {s : State} {x : Nat} {ws : List (Nat × List Byte)}
    (h : ∀ w ∈ ws, x < w.1 ∨ w.1 + w.2.length ≤ x) : (s.writeAll ws).byteAt x = s.byteAt x := by
  induction ws generalizing s with
  | nil => rfl
  | cons w ws ih =>
    obtain ⟨hw, hws⟩ := List.forall_mem_cons.1 h
    rw [State.writeAll, ih hws, State.byteAt_writeBytes_outside s hw]

/-- Writes to places apart from one another all last to the end. -/
theorem State.readBytes_writeAll_of_mem {s : State} {a n : Nat} {bs : List Byte} {ws : List (Nat × List Byte)}
    (hapart : ws.Pairwise fun w v => w.1 + w.2.length ≤ v.1 ∨ v.1 + v.2.length ≤ w.1) (h : (a, bs) ∈ ws)
    (hn : bs.length = n) : (s.writeAll ws).readBytes a n = bs := by
  subst hn
  induction ws generalizing s with
  | nil => cases h
  | cons w ws ih =>
    obtain ⟨hhead, htail⟩ := List.pairwise_cons.1 hapart
    obtain rfl | h := List.mem_cons.1 h
    · rw [State.writeAll, State.readBytes_writeAll_other hhead, State.readBytes_writeBytes_same]
    · exact ih htail h

/-! ### What SETUP writes (R136) -/

/-- SETUP's writes in their order: the zero fills and the header of the header-only payload. -/
def State.setupWrites (s : State) (t r : Bool) : List (Nat × List Byte) :=
  [(s.regs.scratchBase.toNat, zeros s.setupLen)] ++
    (if t then [(s.regs.slot0Base.toNat, zeros s.setupLen), (s.regs.slot1Base.toNat, zeros s.setupLen),
      (s.regs.txcfBase.toNat, le32 (BitVec.ofNat 32 s.setupLen))] else []) ++
    (if r then [(s.regs.reconBase.toNat, zeros s.setupLen)] else [])

theorem State.setupSession_mem_eq_writeAll (s : State) (t r : Bool) :
    (s.setupSession t r).mem = (s.writeAll (s.setupWrites t r)).mem := by
  cases t <;> cases r <;> rfl

theorem State.mem_setupWrites_iff (s : State) (t r : Bool) (w : Nat × List Byte) :
    w ∈ s.setupWrites t r ↔ w = (s.regs.scratchBase.toNat, zeros s.setupLen) ∨
      (t = true ∧ (w = (s.regs.slot0Base.toNat, zeros s.setupLen) ∨ w = (s.regs.slot1Base.toNat, zeros s.setupLen) ∨
        w = (s.regs.txcfBase.toNat, le32 (BitVec.ofNat 32 s.setupLen)))) ∨
      (r = true ∧ w = (s.regs.reconBase.toNat, zeros s.setupLen)) := by
  cases t <;> cases r <;> simp [State.setupWrites, or_assoc]

theorem State.setupLen_pos {s : State} {t r : Bool} (h : s.setupError t r = none) : 0 < s.setupLen := by
  obtain ⟨hwidth, hheight, -⟩ := State.setupError_none h
  exact Nat.mul_pos (Nat.mul_pos (Nat.pos_of_ne_zero hwidth) (Nat.pos_of_ne_zero hheight)) (by decide)

/-- The ranges that the checks have found disjoint hold the writes; of TXCF the header takes the first four bytes. -/
theorem State.setupWrites_apart {s : State} {t r : Bool} (h : s.setupError t r = none) :
    (s.setupWrites t r).Pairwise fun w v => w.1 + w.2.length ≤ v.1 ∨ v.1 + v.2.length ≤ w.1 := by
  have hpos := State.setupLen_pos h
  obtain ⟨-, -, -, hcap, -, -, hdisjoint⟩ := State.setupError_none h
  rw [pairwiseDisjoint_iff] at hdisjoint
  cases t <;> cases r <;>
    simp [State.setupRanges, State.setupBases, Range.overlaps_false_iff, State.setupWrites] at hdisjoint hcap ⊢ <;>
    omega

/-- A SETUP with passing checks has two disjoint frame buffers in memory: scratch, and a slot or recon. -/
theorem State.two_mul_setupLen_le {s : State} {t r : Bool} (hside : (t || r) = true) (h : s.setupError t r = none) :
    2 * s.setupLen ≤ s.memSize := by
  have hpos := State.setupLen_pos h
  obtain ⟨-, -, -, -, -, hmem, hdisjoint⟩ := State.setupError_none h
  rw [pairwiseDisjoint_iff] at hdisjoint
  cases t <;> cases r <;>
    simp [State.setupRanges, State.setupBases, Range.overlaps_false_iff, State.inMemory_iff] at hside hdisjoint hmem <;>
    omega

theorem leValue_le32 (v : Word) : leValue (le32 v) = v.toNat := by
  simp only [le32, leValue, BitVec.extractLsb'_toNat, Nat.shiftRight_eq_div_pow]
  have := v.isLt
  omega

/-- Settles O12: SETUP's memory is that of its writes, which lie apart, so that each of them lasts. -/
theorem setupConstructsTheSession : Obligations.SetupConstructsTheSession := by
  unfold Obligations.SetupConstructsTheSession
  refine ⟨⟨rfl, rfl, rfl⟩, fun t r s hside hsize hcheck => ?_⟩
  have hlen : s.setupLen ≤ 2 ^ 31 := by
    have := State.two_mul_setupLen_le hside hcheck
    omega
  have hmem : (s.setupSession t r).advance.mem = (s.writeAll (s.setupWrites t r)).mem :=
    s.setupSession_mem_eq_writeAll t r
  have hread : ∀ {a n bs}, (a, bs) ∈ s.setupWrites t r → bs.length = n →
      (s.setupSession t r).advance.readBytes a n = bs := fun hw hn => by
    rw [State.readBytes_congr hmem, State.readBytes_writeAll_of_mem (State.setupWrites_apart hcheck) hw hn]
  simp only [State.mem_setupWrites_iff] at hread
  refine ⟨hlen, _, execSetup_of hside hcheck, rfl, hread (.inl rfl) (zeros_length _), fun ht => ⟨?_, ?_, ?_⟩,
    fun hr => ?_, fun x hscratch hsender hrecon => ?_⟩
  · exact hread (.inr (.inl ⟨ht, .inl rfl⟩)) (zeros_length _)
  · exact hread (.inr (.inl ⟨ht, .inr (.inl rfl)⟩)) (zeros_length _)
  · rw [State.memRead, hread (.inr (.inl ⟨ht, .inr (.inr rfl)⟩)) (le32_length _), leValue_le32, BitVec.toNat_ofNat]
    exact Nat.mod_eq_of_lt (by omega)
  · exact hread (.inr (.inr ⟨hr, rfl⟩)) (zeros_length _)
  · rw [State.byteAt_congr hmem]
    refine State.byteAt_writeAll_other fun w hw => ?_
    obtain rfl | ⟨ht, rfl | rfl | rfl⟩ | ⟨hr, rfl⟩ := (s.mem_setupWrites_iff t r w).1 hw
    · rwa [zeros_length]
    · rw [zeros_length]
      exact (hsender ht).1
    · rw [zeros_length]
      exact (hsender ht).2.1
    · exact (hsender ht).2.2
    · rw [zeros_length]
      exact hrecon hr

end Sys2Proof.Machine
end

section
/-! PROOFS. Side validity (spec 40_session_control R137): which steps raise NO_SESSION. -/

namespace Sys2Proof.Machine

/-- The command uses a side that is not set up (R137). -/
def State.LacksSide (s : State) (i : Instr) : Prop :=
  (i ∈ [Instr.capture, .diff, .compress, .swap, .iterate] ∧ s.txv = false) ∨
    (i ∈ [Instr.decompress, .merge, .receive] ∧ s.rxv = false)

theorem State.payloadError_of_rxv {s : State} (h : s.rxv = false) : s.payloadError = some .noSession := by
  rw [State.payloadError, h]
  rfl

/-- The side is checked first: nothing else is written (R137). -/
theorem exec_of_lacksSide {s : State} {i : Instr} (h : s.LacksSide i) :
    exec i s = .next (s.raiseError .noSession) := by
  obtain ⟨hi, htx⟩ | ⟨hi, hrx⟩ := h
  · cases i with
    | capture | diff | compress | swap | iterate => exact requireTx_false htx
    | halt | nop | setup | decompress | merge | receive => simp at hi
  · cases i with
    | merge => exact requireRx_false hrx
    | decompress => exact decompressThen_check (State.payloadError_of_rxv hrx)
    | receive => exact decompressThen_check (k := fun r s1 => mergeThen s1 r complete) (State.payloadError_of_rxv hrx)
    | halt | nop | setup | capture | diff | compress | swap | iterate => simp at hi

/-- The payload checks raise NO_SESSION only for the missing side (R187). -/
theorem State.rxv_of_payloadError {s : State} (h : s.payloadError = some .noSession) : s.rxv = false := by
  obtain ⟨-, hrx⟩ | ⟨-, hcode⟩ := State.payloadError_code h
  · exact hrx
  · simp at hcode

/-- No command but one whose side is missing ends with a new NO_SESSION. -/
theorem exec_noSession {s u : State} {i : Instr} (h : exec i s = .next u) (hcode : u.errCode = .noSession) :
    s.errCode = .noSession ∨ s.LacksSide i := by
  cases i with
  | halt =>
    cases (exec_halt s).symm.trans h
    exact .inl hcode
  | nop =>
    cases (exec_nop s).symm.trans h
    exact .inl hcode
  | setup t r =>
    obtain ⟨-, rfl⟩ | ⟨-, e, hcheck, rfl⟩ | ⟨-, -, rfl⟩ := execSetup_next h
    · cases hcode
    · obtain rfl | rfl := State.setupError_code hcheck <;> cases hcode
    · exact .inl hcode
  | capture =>
    obtain ⟨-, rfl⟩ | ⟨htx, -⟩ := execCapture_next h
    · exact .inl hcode
    · exact .inr (.inl ⟨by decide, htx⟩)
  | diff =>
    obtain ⟨-, -, -, -, rfl⟩ | ⟨htx, -⟩ := execDiff_next h
    · exact .inl hcode
    · exact .inr (.inl ⟨by decide, htx⟩)
  | compress =>
    obtain ⟨-, -, ⟨-, rfl⟩ | ⟨-, -, rfl⟩⟩ | ⟨htx, -⟩ := execCompress_next h
    · cases hcode
    · exact .inl hcode
    · exact .inr (.inl ⟨by decide, htx⟩)
  | swap =>
    obtain ⟨-, rfl⟩ | ⟨htx, -⟩ := execSwap_next h
    · exact .inl hcode
    · exact .inr (.inl ⟨by decide, htx⟩)
  | iterate =>
    obtain ⟨-, rfl⟩ | ⟨htx, -⟩ := execIterate_next h
    · exact .inl hcode
    · exact .inr (.inl ⟨by decide, htx⟩)
  | decompress =>
    obtain ⟨e, hcheck, rfl⟩ | ⟨-, -, ⟨-, rfl⟩ | ⟨r, -, -, rfl⟩⟩ := execDecompress_next h
    · obtain rfl : e = .noSession := hcode
      exact .inr (.inr ⟨by decide, State.rxv_of_payloadError hcheck⟩)
    · cases hcode
    · exact .inl hcode
  | merge =>
    obtain ⟨-, -, -, rfl⟩ | ⟨hrx, -⟩ := execMerge_next h
    · exact .inl hcode
    · exact .inr (.inr ⟨by decide, hrx⟩)
  | receive =>
    obtain ⟨e, hcheck, rfl⟩ | ⟨-, -, ⟨-, rfl⟩ | ⟨r, -, -, -, rfl⟩⟩ := execReceive_next h
    · obtain rfl : e = .noSession := hcode
      exact .inr (.inr ⟨by decide, State.rxv_of_payloadError hcheck⟩)
    · cases hcode
    · exact .inl hcode

theorem engineStep_noSession {s u : State} (h : engineStep s = .next u) (hcode : u.errCode = .noSession) :
    s.errCode = .noSession ∨ (s.phase = .run ∧ ∃ i, s.fetch = .ok i ∧ s.LacksSide i) := by
  obtain ⟨-, rfl⟩ | ⟨hrun, ⟨i, hfetch, hexec⟩ | ⟨e, hfetch, rfl⟩⟩ := engineStep_next h
  · exact .inl hcode
  · exact (exec_noSession hexec hcode).imp_right fun hlacks => ⟨hrun, i, hfetch, hlacks⟩
  · obtain rfl | rfl := State.fetch_error hfetch <;> cases hcode

/-- The rest of a command after its capture raises CAPTURE_FAILURE and CF_OVERFLOW only (R154, R191). -/
theorem answerCapture_noSession {s u : State} {a : CaptureAnswer} (h : answerCapture a s = .next u)
    (hcode : u.errCode = .noSession) : s.errCode = .noSession := by
  obtain ⟨req, -, hans⟩ | ⟨-, rfl⟩ := answerCapture_next h
  · obtain ⟨-, ⟨-, rfl⟩ | ⟨bytes, -, -, ⟨-, rfl⟩ | ⟨-, hfinish⟩⟩⟩ := answerRequest_next hans
    · cases hcode
    · exact hcode
    · obtain ⟨-, -, -, ⟨-, rfl⟩ | ⟨-, -, rfl⟩⟩ := finishIterate_next hfinish
      · cases hcode
      · exact hcode
  · exact hcode

/-- A host write sets no error code (R34, R49, R130). -/
theorem State.writeReg_noSession {s : State} {offset : BitVec 8} {size : AccessSize} {v : Word}
    (hcode : (s.writeReg offset size v).errCode = .noSession) : s.errCode = .noSession := by
  rcases s.writeReg_cases offset size v with hw | ⟨-, hw⟩ | ⟨-, -, -, -, hw⟩ | ⟨-, -, hw⟩ | ⟨-, -, hw⟩ | ⟨-, hw⟩ |
    ⟨-, regs, hw⟩ <;> rw [hw] at hcode
  case inr.inr.inl => cases hcode
  case inr.inr.inr.inl =>
    rw [State.writeStatus_errCode] at hcode
    split_ifs at hcode
    exact hcode
  all_goals exact hcode

/-- A step of any agent that ends with a new NO_SESSION is the engine's step of a command whose side is missing. -/
theorem step_noSession {s u : State} (h : step s = .next u) (hcode : u.errCode = .noSession)
    (hnew : s.errCode ≠ .noSession) : s.phase = .run ∧ s.engineMoves ∧ ∃ i, s.fetch = .ok i ∧ s.LacksSide i := by
  obtain ⟨rest, ⟨hturn, heng⟩ | ⟨offset, size, v, -, rfl⟩ | ⟨-, rfl⟩ | ⟨addr, b, -, -, -, rfl⟩ | ⟨a, -, hans⟩ | ⟨-, rfl⟩⟩ :=
    step_next h
  · obtain hold | ⟨hrun, hlacks⟩ := engineStep_noSession heng hcode
    · exact absurd hold hnew
    · exact ⟨hrun, s.engineMoves_iff.2 ⟨rest, hturn⟩, hlacks⟩
  · exact absurd (State.writeReg_noSession hcode) hnew
  · exact absurd hcode hnew
  · exact absurd hcode hnew
  · exact absurd (answerCapture_noSession hans hcode) hnew
  · cases hcode

/-- A sender command's side is there exactly when TXV = 1, a receiver command's when RXV = 1 (R137). -/
theorem State.not_lacksSide_of_sender {s : State} {i : Instr} (hi : i ∈ [Instr.capture, .diff, .compress, .swap, .iterate])
    (htx : s.txv = true) : ¬s.LacksSide i := by
  rintro (⟨-, hno⟩ | ⟨hrecv, -⟩)
  · rw [htx] at hno
    cases hno
  · revert hi hrecv
    cases i <;> simp

theorem State.not_lacksSide_of_receiver {s : State} {i : Instr} (hi : i ∈ [Instr.decompress, .merge, .receive])
    (hrx : s.rxv = true) : ¬s.LacksSide i := by
  rintro (⟨hsend, -⟩ | ⟨-, hno⟩)
  · revert hi hsend
    cases i <;> simp
  · rw [hrx] at hno
    cases hno

theorem State.not_lacksSide_of_noSide {s : State} {i : Instr} {t r : Bool} (hi : i ∈ [Instr.halt, .nop, .setup t r]) :
    ¬s.LacksSide i := by
  simp only [List.mem_cons, List.not_mem_nil, or_false] at hi
  obtain rfl | rfl | rfl := hi <;> simp [State.LacksSide]

/-- Settles O15: `exec_of_lacksSide` for the missing side; `exec_noSession` and `step_noSession` for every other step. -/
theorem sideValidityComesFirst : Obligations.SideValidityComesFirst := by
  unfold Obligations.SideValidityComesFirst
  intro s
  have hkeep : ∀ {i}, ¬s.LacksSide i → ∀ u, exec i s = .next u → u.errCode = .noSession → s.errCode = .noSession :=
    fun hside u h hcode => (exec_noSession h hcode).resolve_right hside
  refine ⟨fun u => step_noSession, fun i hi => ⟨fun htx => ?_, fun htx => ?_⟩, fun i hi => ⟨fun hrx => ?_, fun hrx => ?_⟩,
    fun i t r hi => ?_⟩
  · exact exec_of_lacksSide (.inl ⟨hi, htx⟩)
  · exact hkeep (State.not_lacksSide_of_sender hi htx)
  · exact exec_of_lacksSide (.inr ⟨hi, hrx⟩)
  · exact hkeep (State.not_lacksSide_of_receiver hi hrx)
  · exact hkeep (State.not_lacksSide_of_noSide hi)

end Sys2Proof.Machine
end

section
/-! PROOFS. A capture that fails (spec 41_capture R151, R154). -/

namespace Sys2Proof.Machine

/-- A read apart from the range in which two states may differ is the same in both. -/
theorem State.readBytes_eq_of_apart {s u : State} {a n b k : Nat}
    (hframe : ∀ x, (x < a ∨ a + n ≤ x) → u.byteAt x = s.byteAt x) (hapart : b + k ≤ a ∨ a + n ≤ b) :
    u.readBytes b k = s.readBytes b k := by
  rw [State.readBytes_eq_iff]
  intro i hi
  exact hframe _ (by omega)

/-- Only the bytes of the requested range become any value. -/
theorem State.byteAt_captureFailed_outside (s : State) {req : CaptureRequest} {x : Nat}
    (h : x < req.base.toNat ∨ req.base.toNat + req.len.toNat ≤ x) : (s.captureFailed req).byteAt x = s.byteAt x :=
  State.byteAt_scramble_outside s h

/-- The whole next state of a `fail` answer to a request that lies in memory (R151, R154). -/
theorem step_captureFail {s : State} {req : CaptureRequest} {rest : List Turn} (hphase : s.phase = .waitCapture req)
    (hturns : s.turns = .captureAnswer .fail :: rest) (hmem : req.base.toNat + req.len.toNat ≤ s.memSize) :
    step s = .next (((s.withTurns rest).captureFailed req).raiseError .captureFailure) := by
  rw [step_answer hphase hturns, answerRequest_fail (by simpa using hmem)]

/-- Settles O20: the invariant makes the request the current slot, in memory and apart from `previous`, scratch and TXCF,
so the frame of the failed capture leaves these three as they were. -/
theorem captureFailureLeavesFrameState : Obligations.CaptureFailureLeavesFrameState := by
  unfold Obligations.CaptureFailureLeavesFrameState
  intro s req rest hinv hphase hturns
  obtain ⟨htx, hbase, hlen⟩ := hinv.wait req hphase
  have hreqLen : req.len.toNat = s.frameBytes := congrArg BitVec.toNat hlen
  have hlayout := hinv.session.sender htx
  have hmem : req.base.toNat + req.len.toNat ≤ s.memSize := by
    rw [hbase, hreqLen]
    exact hlayout.cur_in
  have hframe : ∀ x, (x < s.curSlot.toNat ∨ s.curSlot.toNat + s.frameBytes ≤ x) →
      (((s.withTurns rest).captureFailed req).raiseError .captureFailure).byteAt x = s.byteAt x := by
    intro x hx
    exact State.byteAt_captureFailed_outside (s.withTurns rest) (by rwa [hbase, hreqLen])
  exact ⟨_, step_captureFail hphase hturns hmem, rfl, State.readBytes_eq_of_apart hframe hlayout.cur_prev,
    State.readBytes_eq_of_apart hframe hlayout.scratch_cur.symm,
    State.readBytes_eq_of_apart hframe hlayout.cur_txcf, hframe⟩

end Sys2Proof.Machine
end

section
/-! PROOFS. The delta kernel (spec 42_delta): what DIFF and MERGE leave in scratch and in recon (R161, R162, R164), and the
XOR as its own inverse (R165). -/

namespace Sys2Proof.Machine

/-! ### The commands where their buffers lie in memory (R161, R164) -/

theorem exec_diff_of {s : State} (htx : s.txv = true) (hcur : s.curSlot.toNat + s.frameBytes ≤ s.memSize)
    (hprev : s.prevSlot.toNat + s.frameBytes ≤ s.memSize)
    (hscratch : s.session.scratch.toNat + s.frameBytes ≤ s.memSize) :
    exec .diff s = .next s.writeDelta.advance := by
  change requireTx s (deltaThen s complete) = _
  rw [requireTx_true htx, deltaThen_of ((s.inMemory_iff _).2 hcur) ((s.inMemory_iff _).2 hprev)
    ((s.inMemory_iff _).2 hscratch), complete_eq]

theorem exec_merge_of {s : State} (hrx : s.rxv = true) (hrecon : s.session.recon.toNat + s.frameBytes ≤ s.memSize)
    (hscratch : s.session.scratch.toNat + s.frameBytes ≤ s.memSize) :
    exec .merge s = .next (s.mergeInto (s.frameAt s.session.scratch)).advance := by
  have hin : ∀ q ∈ [s.scratchRange], s.inMemory q = true :=
    List.forall_mem_singleton.2 ((s.inMemory_iff _).2 hscratch)
  change requireRx s (guardMemory s [s.scratchRange] (mergeThen s (s.frameAt s.session.scratch) complete)) = _
  rw [requireRx_true hrx, guardMemory_of hin, mergeThen_of ((s.inMemory_iff _).2 hrecon), complete_eq]

/-! ### What they write, as frames -/

@[simp] theorem State.frameAt_advance (s : State) (b : Word) : s.advance.frameAt b = s.frameAt b := rfl

/-- DIFF's delta stands in scratch (R161). -/
theorem State.frameAt_writeDelta_scratch (s : State) :
    s.writeDelta.frameAt s.session.scratch = xorw (s.frameAt s.curSlot) (s.frameAt s.prevSlot) :=
  State.readBytes_writeBytes_of_length (by simp)

/-- DIFF leaves every frame apart from scratch (R161). -/
theorem State.frameAt_writeDelta_apart {s : State} {b : Word}
    (h : b.toNat + s.frameBytes ≤ s.session.scratch.toNat ∨ s.session.scratch.toNat + s.frameBytes ≤ b.toNat) :
    s.writeDelta.frameAt b = s.frameAt b :=
  State.readBytes_writeBytes_other s (by simpa using h)

/-- `merge_into` of a whole frame leaves recon XOR the frame in recon (R163). -/
theorem State.frameAt_mergeInto_recon {s : State} {x : List Byte} (h : x.length = s.frameBytes) :
    (s.mergeInto x).frameAt s.session.recon = xorw (s.frameAt s.session.recon) x :=
  State.readBytes_writeBytes_of_length (by simp [h])

/-! ### The two statements -/

/-- The XOR is its own inverse on strings of one length (R165). -/
theorem xorw_xorw_cancel {a b : List Byte} (h : a.length = b.length) : xorw (xorw a b) b = a := by
  rw [xorw_assoc h rfl, xorw_self, ← h, xorw_zero]

/-- Settles O24: the delta of equal frames is the XOR of a string with itself. -/
theorem equalSlotsGiveZeroDelta : Obligations.EqualSlotsGiveZeroDelta := by
  unfold Obligations.EqualSlotsGiveZeroDelta
  intro s hinv htx hslots
  have hlayout := hinv.session.sender htx
  have hequal : s.frameAt s.curSlot = s.frameAt s.prevSlot := by
    obtain ⟨hcur, hprev⟩ | ⟨hcur, hprev⟩ := s.slots_cases <;> rw [hcur, hprev, hslots]
  refine ⟨_, exec_diff_of htx hlayout.cur_in hlayout.prev_in hlayout.scratch_in, ?_⟩
  calc s.writeDelta.advance.frameAt s.session.scratch
    _ = xorw (s.frameAt s.curSlot) (s.frameAt s.prevSlot) := s.frameAt_writeDelta_scratch
    _ = List.replicate s.frameBytes 0 := by rw [hequal, xorw_self, State.frameAt_length]

/-- Settles O25: DIFF leaves recon, which lies apart from scratch, at `previous`; MERGE then XORs the delta with it. -/
theorem diffThenMergeGivesCurrent : Obligations.DiffThenMergeGivesCurrent := by
  unfold Obligations.DiffThenMergeGivesCurrent
  refine ⟨fun a b => xorw_xorw_cancel, fun s hinv htx hrx hrecon => ?_⟩
  have hsend := hinv.session.sender htx
  have hrecv := hinv.session.receiver hrx
  have hdiff := exec_diff_of htx hsend.cur_in hsend.prev_in hsend.scratch_in
  have hmerge := exec_merge_of (s := s.writeDelta.advance) hrx hrecv.recon_in hrecv.scratch_in
  refine ⟨_, _, hdiff, hmerge, ?_⟩
  have hdelta : s.writeDelta.advance.frameAt s.session.scratch = xorw (s.frameAt s.curSlot) (s.frameAt s.prevSlot) :=
    s.frameAt_writeDelta_scratch
  have hkept : s.writeDelta.advance.frameAt s.session.recon = s.frameAt s.prevSlot :=
    (State.frameAt_writeDelta_apart hrecv.scratch_recon).trans hrecon
  calc (s.writeDelta.advance.mergeInto (s.writeDelta.advance.frameAt s.session.scratch)).frameAt s.session.recon
    _ = xorw (s.writeDelta.advance.frameAt s.session.recon) (s.writeDelta.advance.frameAt s.session.scratch) :=
      State.frameAt_mergeInto_recon (s := s.writeDelta.advance) (by simp)
    _ = xorw (xorw (s.frameAt s.curSlot) (s.frameAt s.prevSlot)) (s.frameAt s.prevSlot) := by
      rw [hdelta, hkept, xorw_comm]
    _ = s.frameAt s.curSlot := xorw_xorw_cancel (by simp)

end Sys2Proof.Machine
end

section
/-! PROOFS. The receiver's payload checks in their order (spec 43_codec R187), for DECOMPRESS and RECEIVE. -/

namespace Sys2Proof.Machine

/-- Two ranges overlap when they share an address (R12). -/
theorem Range.overlaps_iff_shared (q r : Range) : q.overlaps r = true ↔
    ∃ x, (q.base ≤ x ∧ x < q.base + q.len) ∧ (r.base ≤ x ∧ x < r.base + r.len) := by
  simp only [Range.overlaps_iff_exists, Range.has, Bool.and_eq_true, decide_eq_true_eq]

/-! ### Each check where those before it pass -/

theorem State.payloadError_of_range {s : State} (hrx : s.rxv = true) (hmem : s.inMemory s.rxcfRange = false) :
    s.payloadError = some .bufferRange := by
  rw [State.payloadError, if_neg (by simp [hrx]), if_pos (by simp [hmem])]

theorem State.payloadError_of_overlap {s : State} (hrx : s.rxv = true) (hmem : s.inMemory s.rxcfRange = true)
    (hover : s.rxcfRange.overlaps s.scratchRange = true ∨ s.rxcfRange.overlaps s.reconRange = true) :
    s.payloadError = some .bufferRange := by
  rw [State.payloadError, if_neg (by simp [hrx]), if_neg (by simp [hmem]), if_pos (by simpa using hover)]

/-- The checks of the CompressedFrame itself, once those of the side and the buffers pass. -/
theorem State.payloadError_of_placed {s : State} (hrx : s.rxv = true) (hmem : s.inMemory s.rxcfRange = true)
    (hapart : ¬(s.rxcfRange.overlaps s.scratchRange = true ∨ s.rxcfRange.overlaps s.reconRange = true)) :
    s.payloadError =
      if s.regs.rxcfSize.toNat < 4 then some .decompressionFailure
      else if s.regs.rxcfSize.toNat = 4 then some .noPayload
      else if s.memRead s.regs.rxcfBase.toNat 4 ≠ s.frameBytes then some .decompressionFailure
      else none := by
  rw [State.payloadError, if_neg (by simp [hrx]), if_neg (by simp [hmem]), if_neg (by simpa using hapart)]

/-! ### The two commands -/

/-- DECOMPRESS and RECEIVE stop at a failed check, with nothing else written (R187). -/
theorem exec_of_payloadError {s : State} {i : Instr} {e : ErrorCode} (hi : i = .decompress ∨ i = .receive)
    (h : s.payloadError = some e) : exec i s = .next (s.raiseError e) := by
  obtain rfl | rfl := hi
  · exact decompressThen_check h
  · exact decompressThen_check (k := fun r s1 => mergeThen s1 r complete) h

/-- Settles O29: each clause is one check of `payloadError` where those before it pass, and a failed check stops either
command. -/
theorem payloadChecksInOrder : Obligations.PayloadChecksInOrder := by
  unfold Obligations.PayloadChecksInOrder
  intro s i hi a n L stops shares
  have hstops : ∀ {c}, s.payloadError = some c → stops c := exec_of_payloadError hi
  have hrange : s.inMemory s.rxcfRange = true ↔ a + n ≤ s.memSize := s.inMemory_iff _
  have hshares : s.rxcfRange.overlaps s.scratchRange = true ∨ s.rxcfRange.overlaps s.reconRange = true ↔
      shares s.session.scratch.toNat ∨ shares s.session.recon.toNat :=
    or_congr (Range.overlaps_iff_shared _ _) (Range.overlaps_iff_shared _ _)
  refine ⟨fun hrx => hstops (State.payloadError_of_rxv hrx), fun hrx hout => hstops ?_,
    fun hrx hmem hover => hstops ?_, fun hrx hmem hapart => ?_⟩
  · exact State.payloadError_of_range hrx (Bool.eq_false_iff.2 fun hmem => by have := hrange.1 hmem; omega)
  · exact State.payloadError_of_overlap hrx (hrange.2 hmem) (hshares.2 hover)
  · have hplaced := State.payloadError_of_placed hrx (hrange.2 hmem) (mt hshares.1 hapart)
    refine ⟨fun hlt => hstops ?_, fun hfour => hstops ?_, fun hgt hheader => hstops ?_, fun hgt hheader => ?_⟩
    · rw [hplaced, if_pos hlt]
    · rw [hplaced, if_neg (by omega), if_pos hfour]
    · rw [hplaced, if_neg (by omega), if_neg (by omega), if_pos hheader]
    · rw [hplaced, if_neg (by omega), if_neg (by omega), if_neg (not_not_intro hheader)]

end Sys2Proof.Machine
end

section
/-! PROOFS. The sender pipeline (spec 44_sender): SWAP and the roles of the slots (R200), and TXCYCLE's four commands as
one ITERATE (R203). -/

namespace Sys2Proof.Machine

/-! ### SWAP and the roles of the slots (R51, R200) -/

theorem exec_swap_of {s : State} (htx : s.txv = true) : exec .swap s = .next s.swapSlots.advance := by
  change requireTx s (complete s.swapSlots) = _
  rw [requireTx_true htx, complete_eq]

@[simp] theorem State.prevSlot_swapSlots (s : State) : s.swapSlots.prevSlot = s.curSlot := by
  cases h : s.prevSel <;> simp [State.prevSlot, State.curSlot, h]

@[simp] theorem State.curSlot_swapSlots (s : State) : s.swapSlots.curSlot = s.prevSlot := by
  cases h : s.prevSel <;> simp [State.prevSlot, State.curSlot, h]

/-- Settles O33: the whole next state is `State.swapSlots` advanced, and the second SWAP runs in it. -/
theorem swapExchangesRoles : Obligations.SwapExchangesRoles := by
  unfold Obligations.SwapExchangesRoles
  refine ⟨rfl, fun s => ⟨fun htx => exec_of_lacksSide (.inl ⟨by simp, htx⟩), fun htx => ?_⟩⟩
  exact ⟨_, _, exec_swap_of htx, rfl, s.prevSlot_swapSlots, s.curSlot_swapSlots,
    exec_swap_of (s := s.swapSlots.advance) htx, Bool.not_not s.prevSel⟩

/-! ### One command and the answer to its request -/

/-- The command that a wait belongs to (R150). -/
def WaitingCommand.instr : WaitingCommand → Instr
  | .capture => .capture
  | .iterate => .iterate

theorem exec_waitingCommand {s : State} (c : WaitingCommand) (htx : s.txv = true) :
    exec c.instr s = .next (s.requestCapture c) := by
  cases c with
  | capture | iterate => exact requireTx_true htx

theorem execAnswered_waiting {i : Instr} {a : CaptureAnswer} {s t : State} {req : CaptureRequest}
    (h : exec i s = .next t) (ht : t.phase = .waitCapture req) : execAnswered i a s = answerRequest req a t := by
  simp only [execAnswered, h, ht, answerCapture]

theorem execAnswered_done {i : Instr} {a : CaptureAnswer} {s t : State} (h : exec i s = .next t)
    (ht : ∀ req, t.phase ≠ .waitCapture req) : execAnswered i a s = .next t := by
  rw [execAnswered, h]
  cases hp : t.phase with
  | waitCapture req => exact absurd hp (ht req)
  | idle | run => simp only [hp]

/-- A command whose side is missing asks for no capture (R137). -/
theorem execAnswered_of_lacksSide {i : Instr} {s : State} (a : CaptureAnswer) (h : s.LacksSide i) :
    execAnswered i a s = .next (s.raiseError .noSession) :=
  execAnswered_done (exec_of_lacksSide h) (by simp)

/-- From phase RUN, the request and its `ok` answer come to the captured bytes in `current`; then the command goes on
(R151). -/
theorem execAnswered_ok {s : State} {bytes : List Byte} (c : WaitingCommand) (hrun : s.phase = .run)
    (htx : s.txv = true) (hcur : s.curSlot.toNat + s.frameBytes ≤ s.memSize) (hlen : bytes.length = s.frameBytes) :
    execAnswered c.instr (.ok bytes) s = resumeCommand c (s.writeBytes s.curSlot.toNat bytes) := by
  have hland : (s.requestCapture c).captured ⟨s.curSlot, s.session.frameLen, c⟩ bytes =
      s.writeBytes s.curSlot.toNat bytes := by
    change { s.writeBytes s.curSlot.toNat bytes with phase := .run } = _
    rw [← hrun]
    rfl
  rw [execAnswered_waiting (exec_waitingCommand c htx) rfl, answerRequest_ok hcur hlen, hland]

/-- The request and its `fail` answer leave `current` at any value (R151, R154). -/
theorem execAnswered_fail {s : State} (c : WaitingCommand) (htx : s.txv = true)
    (hcur : s.curSlot.toNat + s.frameBytes ≤ s.memSize) :
    execAnswered c.instr .fail s =
      .next ((s.scramble s.curSlot.toNat s.frameBytes).raiseError .captureFailure) := by
  rw [execAnswered_waiting (exec_waitingCommand c htx) rfl, answerRequest_fail hcur]
  rfl

/-! ### A list of commands (R131, R241) -/

theorem execList_cons_run {i : Instr} {is : List Instr} {a : CaptureAnswer} {s t : State}
    (h : execAnswered i a s = .next t) (ht : t.phase = .run) : execList a (i :: is) s = execList a is t := by
  simp only [execList, h, if_pos ht]

theorem execList_cons_stop {i : Instr} {is : List Instr} {a : CaptureAnswer} {s t : State}
    (h : execAnswered i a s = .next t) (ht : t.phase ≠ .run) : execList a (i :: is) s = .next t := by
  simp only [execList, h, if_neg ht]

/-- A command that completes in phase RUN hands on to the rest of the list. -/
theorem execList_cons_complete {i : Instr} {is : List Instr} {a : CaptureAnswer} {s t : State}
    (h : exec i s = .next t) (ht : t.phase = .run) : execList a (i :: is) s = execList a is t :=
  execList_cons_run (execAnswered_done h (by simp [ht])) ht

/-- A command that raises an error ends the list. -/
theorem execList_cons_raise {i : Instr} {is : List Instr} {a : CaptureAnswer} {s t : State} {e : ErrorCode}
    (h : exec i s = .next (t.raiseError e)) : execList a (i :: is) s = .next (t.raiseError e) :=
  execList_cons_stop (execAnswered_done h (by simp)) (by simp)

/-! ### CPC apart from the rest: an advance commutes with what the sender's commands write -/

@[simp] theorem State.writeDelta_advance (s : State) : s.advance.writeDelta = s.writeDelta.advance := rfl

@[simp] theorem State.writePayload_advance (s : State) : s.advance.writePayload = s.writePayload.advance := rfl

@[simp] theorem State.swapSlots_advance (s : State) : s.advance.swapSlots = s.swapSlots.advance := rfl

@[simp] theorem State.raiseError_advance (s : State) (e : ErrorCode) :
    s.advance.raiseError e = (s.raiseError e).advance := rfl

/-- Two states that are equal but for CPC stay so when one of them advances. -/
theorem State.advance_eq_withCpc {u v : State} (h : u = { v with cpc := u.cpc }) :
    u.advance = { v with cpc := u.advance.cpc } :=
  congrArg State.advance h

/-! ### DIFF, COMPRESS and SWAP against ITERATE's steps 2 to 4 -/

/-- The sender side's buffers lie in memory, apart from one another (R75, R76). -/
def State.SenderPlaced (s : State) : Prop :=
  SenderLayout s.memSize s.frameBytes s.session.scratch.toNat s.curSlot.toNat s.prevSlot.toNat
    s.session.txcfBase.toNat s.session.txcfCap.toNat

/-- The delta of `current` against `previous`, compressed, fits in TXCF behind its header (R185). -/
def State.DeltaFits (s : State) : Prop := 4 + s.writeDelta.payloadBody.length ≤ s.session.txcfCap.toNat

/-- The placement speaks of the session and the slots alone, so no write of memory and no move of CPC touches it. -/
theorem State.SenderPlaced.writeBytes {s : State} (h : s.SenderPlaced) (a : Nat) (bs : List Byte) :
    (s.writeBytes a bs).SenderPlaced := h

theorem State.SenderPlaced.writeDelta {s : State} (h : s.SenderPlaced) : s.writeDelta.SenderPlaced := h

theorem State.SenderPlaced.advance {s : State} (h : s.SenderPlaced) : s.advance.SenderPlaced := h

theorem State.SenderPlaced.scratch_inMemory {s : State} (h : s.SenderPlaced) : s.inMemory s.scratchRange = true :=
  (s.inMemory_iff _).2 h.scratch_in

theorem State.SenderPlaced.deltaThen_eq {s : State} (h : s.SenderPlaced) (k : State → Result) :
    deltaThen s k = k s.writeDelta :=
  deltaThen_of ((s.inMemory_iff _).2 h.cur_in) ((s.inMemory_iff _).2 h.prev_in) h.scratch_inMemory

/-- A payload that fits in TXCF lies in memory with it. -/
theorem State.SenderPlaced.compressThen_eq {s : State} (h : s.SenderPlaced)
    (hfit : 4 + s.payloadBody.length ≤ s.session.txcfCap.toNat) (k : State → Result) :
    compressThen s k = k s.writePayload :=
  compressThen_of h.scratch_inMemory hfit
    ((s.inMemory_iff _).2 ((Nat.add_le_add_left hfit s.session.txcfBase.toNat).trans h.txcf_in))

section
variable {s : State} (h : s.SenderPlaced)
include h

theorem exec_compress_of (htx : s.txv = true) (hfit : 4 + s.payloadBody.length ≤ s.session.txcfCap.toNat) :
    exec .compress s = .next s.writePayload.advance := by
  change requireTx s (compressThen s complete) = _
  rw [requireTx_true htx, h.compressThen_eq hfit, complete_eq]

theorem exec_compress_overflow (htx : s.txv = true)
    (hover : s.session.txcfCap.toNat < 4 + s.payloadBody.length) :
    exec .compress s = .next (s.raiseError .cfOverflow) := by
  change requireTx s (compressThen s complete) = _
  rw [requireTx_true htx, compressThen_overflow h.scratch_inMemory hover]

theorem finishIterate_of (hfit : s.DeltaFits) :
    finishIterate s = .next s.writeDelta.writePayload.swapSlots.advance := by
  rw [finishIterate, h.deltaThen_eq, h.writeDelta.compressThen_eq hfit, complete_eq]

theorem finishIterate_overflow (hover : ¬s.DeltaFits) :
    finishIterate s = .next (s.writeDelta.raiseError .cfOverflow) := by
  rw [finishIterate, h.deltaThen_eq, compressThen_overflow h.writeDelta.scratch_inMemory (Nat.not_le.1 hover)]

/-- After the CAPTURE, in phase RUN: DIFF, COMPRESS and SWAP do what ITERATE's steps 2 to 4 do, with an advance each. -/
theorem execList_diffCompressSwap_of (a : CaptureAnswer) (hrun : s.phase = .run) (htx : s.txv = true)
    (hfit : s.DeltaFits) :
    execList a [.diff, .compress, .swap] s.advance =
      .next s.writeDelta.writePayload.swapSlots.advance.advance.advance.advance := by
  rw [execList_cons_complete (exec_diff_of (s := s.advance) htx h.cur_in h.prev_in h.scratch_in) hrun,
    State.writeDelta_advance, execList_cons_complete (exec_compress_of h.writeDelta.advance.advance htx hfit) hrun,
    State.writePayload_advance, State.writePayload_advance,
    execList_cons_complete (exec_swap_of (by simpa using htx)) (by simpa using hrun)]
  simp only [execList, State.swapSlots_advance]

/-- After the CAPTURE, a payload that does not fit ends the list at the COMPRESS. -/
theorem execList_diffCompressSwap_overflow (a : CaptureAnswer) (hrun : s.phase = .run) (htx : s.txv = true)
    (hover : ¬s.DeltaFits) :
    execList a [.diff, .compress, .swap] s.advance =
      .next (s.writeDelta.raiseError .cfOverflow).advance.advance := by
  rw [execList_cons_complete (exec_diff_of (s := s.advance) htx h.cur_in h.prev_in h.scratch_in) hrun,
    State.writeDelta_advance,
    execList_cons_raise (exec_compress_overflow h.writeDelta.advance.advance htx (Nat.not_le.1 hover))]
  simp only [State.raiseError_advance]

end

/-! ### The two forms of one cycle (R203) -/

/-- Settles O36: both forms end at the same missing side or the same failed capture; once the captured bytes have landed,
the list's three commands are `finishIterate` but for their advances. -/
theorem iterateEqualsTxcycle : Obligations.IterateEqualsTxcycle := by
  unfold Obligations.IterateEqualsTxcycle
  intro s answer hinv hrun hlen
  rw [Pseudo.expansion]
  cases htx : s.txv with
  | false =>
    have hcapture := execAnswered_of_lacksSide (s := s) (i := .capture) answer (.inl ⟨by simp, htx⟩)
    have hiterate := execAnswered_of_lacksSide (s := s) (i := .iterate) answer (.inl ⟨by simp, htx⟩)
    exact ⟨_, _, execList_cons_stop hcapture (by simp), hiterate, rfl,
      .inr (.inr (.inr ⟨rfl, rfl, rfl, rfl, rfl⟩))⟩
  | true =>
    have hplaced : s.SenderPlaced := hinv.session.sender htx
    cases answer with
    | fail =>
      have hcapture := execAnswered_fail .capture htx hplaced.cur_in
      have hiterate := execAnswered_fail .iterate htx hplaced.cur_in
      exact ⟨_, _, execList_cons_stop hcapture (by simp), hiterate, rfl, .inr (.inl ⟨rfl, rfl, rfl, rfl⟩)⟩
    | ok bytes =>
      have hcapture : execAnswered .capture (.ok bytes) s = .next (s.writeBytes s.curSlot.toNat bytes).advance :=
        execAnswered_ok .capture hrun htx hplaced.cur_in (hlen bytes rfl)
      have hiterate : execAnswered .iterate (.ok bytes) s = finishIterate (s.writeBytes s.curSlot.toNat bytes) :=
        execAnswered_ok .iterate hrun htx hplaced.cur_in (hlen bytes rfl)
      have hlanded := hplaced.writeBytes s.curSlot.toNat bytes
      rw [execList_cons_run hcapture hrun, hiterate]
      by_cases hfit : (s.writeBytes s.curSlot.toNat bytes).DeltaFits
      · refine ⟨_, _, execList_diffCompressSwap_of hlanded _ hrun htx hfit, finishIterate_of hlanded hfit,
          State.advance_eq_withCpc (State.advance_eq_withCpc (State.advance_eq_withCpc rfl)),
          .inl ⟨by simpa using hrun, by simp, ?_⟩⟩
        simp only [State.advance_cpc, BitVec.add_assoc, BitVec.reduceAdd]
      · exact ⟨_, _, execList_diffCompressSwap_overflow hlanded _ hrun htx hfit, finishIterate_overflow hlanded hfit,
          State.advance_eq_withCpc (State.advance_eq_withCpc rfl),
          .inr (.inr (.inl ⟨rfl, rfl, rfl, BitVec.add_assoc s.cpc 4 4⟩))⟩

end Sys2Proof.Machine
end

section
/-! PROOFS. The receiver pipeline (spec 45_receiver): RECEIVE whose payload decodes (R220), RXCYCLE's two commands as one
RECEIVE (R222), and what a payload that a sender made brings (R223, R224). -/

namespace Sys2Proof.Machine

/-! ### The two outcomes of the decompress step (R187 to R189) -/

/-- The checks of R187 pass and the body decodes to one whole frame (R188). -/
structure State.Decodes (s : State) (delta : List Byte) : Prop where
  checked : s.payloadError = none
  decoded : s.codec.dec s.rxcfBody = some delta
  whole : delta.length = s.frameBytes

/-- Where the checks pass, the receiver side is set up, so its buffers lie in memory and apart (R75, R76). -/
theorem State.receiverLayout_of_checked {s : State} (hinv : s.Inv) (hchecked : s.payloadError = none) :
    ReceiverLayout s.memSize s.frameBytes s.session.scratch.toNat s.session.recon.toNat :=
  hinv.session.receiver (State.payloadError_none hchecked).1

/-- DECOMPRESS and RECEIVE stop at a body that decodes to no whole frame, with scratch at any value (R189). -/
theorem exec_of_codecFailure {s : State} {i : Instr} (hi : i = .decompress ∨ i = .receive)
    (hchecked : s.payloadError = none) (hscratch : s.session.scratch.toNat + s.frameBytes ≤ s.memSize)
    (hdec : ∀ r, s.codec.dec s.rxcfBody = some r → r.length ≠ s.frameBytes) :
    exec i s =
      .next ((s.scramble s.session.scratch.toNat s.frameBytes).raiseError .decompressionFailure) := by
  have hin : s.inMemory s.scratchRange = true := (s.inMemory_iff _).2 hscratch
  obtain rfl | rfl := hi
  · exact decompressThen_fail hchecked hin hdec
  · exact decompressThen_fail (k := fun r s1 => mergeThen s1 r complete) hchecked hin hdec

/-- Either the payload decodes, or DECOMPRESS and RECEIVE both stop at the same error, in the same state, with recon as it
was (R187, R189, R220). -/
theorem State.decodes_or_stops {s : State} (hinv : s.Inv) :
    (∃ delta, s.Decodes delta) ∨
      ∃ (t : State) (e : ErrorCode), t.cpc = s.cpc ∧ t.frameAt s.session.recon = s.frameAt s.session.recon ∧
        ∀ i, i = .decompress ∨ i = .receive → exec i s = .next (t.raiseError e) := by
  cases hchecked : s.payloadError with
  | some e => exact .inr ⟨s, e, rfl, rfl, fun i hi => exec_of_payloadError hi hchecked⟩
  | none =>
    have hlayout := State.receiverLayout_of_checked hinv hchecked
    by_cases hdec : ∃ r, s.codec.dec s.rxcfBody = some r ∧ r.length = s.frameBytes
    · obtain ⟨r, hdecoded, hwhole⟩ := hdec
      exact .inl ⟨r, hchecked, hdecoded, hwhole⟩
    · have hkept : (s.scramble s.session.scratch.toNat s.frameBytes).frameAt s.session.recon =
          s.frameAt s.session.recon :=
        State.readBytes_eq_of_apart (fun _ => State.byteAt_scramble_outside s) hlayout.scratch_recon
      exact .inr ⟨s.scramble s.session.scratch.toNat s.frameBytes, .decompressionFailure, rfl, hkept,
        fun i hi => exec_of_codecFailure hi hchecked hlayout.scratch_in fun r hr hlen => hdec ⟨r, hr, hlen⟩⟩

/-! ### A payload that decodes (R188, R220) -/

/-- Scratch takes the decoded delta, and recon its XOR with it (R220). -/
def State.applyPayload (s : State) (delta : List Byte) : State :=
  (s.writeBytes s.session.scratch.toNat delta).mergeInto delta

@[simp] theorem State.mergeInto_advance (s : State) (x : List Byte) :
    s.advance.mergeInto x = (s.mergeInto x).advance := rfl

section
variable {s : State} {delta : List Byte} (hinv : s.Inv) (h : s.Decodes delta)
include hinv h

theorem exec_decompress_of : exec .decompress s = .next (s.writeBytes s.session.scratch.toNat delta).advance :=
  decompressThen_of h.checked
    ((s.inMemory_iff _).2 (State.receiverLayout_of_checked hinv h.checked).scratch_in) h.decoded h.whole

theorem exec_receive_of : exec .receive s = .next (s.applyPayload delta).advance := by
  have hlayout := State.receiverLayout_of_checked hinv h.checked
  calc exec .receive s
    _ = mergeThen (s.writeBytes s.session.scratch.toNat delta) delta complete :=
      decompressThen_of (k := fun r s1 => mergeThen s1 r complete) h.checked
        ((s.inMemory_iff _).2 hlayout.scratch_in) h.decoded h.whole
    _ = .next (s.applyPayload delta).advance := mergeThen_of ((s.inMemory_iff _).2 hlayout.recon_in)

/-- Recon lies apart from scratch, so the merge reads it as it was before the command. -/
theorem State.frameAt_applyPayload_recon :
    (s.applyPayload delta).frameAt s.session.recon = xorw (s.frameAt s.session.recon) delta := by
  have hlayout := State.receiverLayout_of_checked hinv h.checked
  have hkept : (s.writeBytes s.session.scratch.toNat delta).frameAt s.session.recon = s.frameAt s.session.recon :=
    State.readBytes_writeBytes_other s (by simpa [h.whole] using hlayout.scratch_recon)
  calc (s.applyPayload delta).frameAt s.session.recon
    _ = xorw ((s.writeBytes s.session.scratch.toNat delta).frameAt s.session.recon) delta :=
      State.frameAt_mergeInto_recon (s := s.writeBytes s.session.scratch.toNat delta) h.whole
    _ = xorw (s.frameAt s.session.recon) delta := by rw [hkept]

/-- After DECOMPRESS, MERGE finds the decoded delta in scratch. -/
theorem execList_decompressMerge_of (a : CaptureAnswer) (hrun : s.phase = .run) :
    execList a [.decompress, .merge] s = .next (s.applyPayload delta).advance.advance := by
  have hlayout := State.receiverLayout_of_checked hinv h.checked
  have hrx := (State.payloadError_none h.checked).1
  have hdelta : (s.writeBytes s.session.scratch.toNat delta).advance.frameAt s.session.scratch = delta :=
    State.readBytes_writeBytes_of_length h.whole
  have hmerge := exec_merge_of (s := (s.writeBytes s.session.scratch.toNat delta).advance) hrx hlayout.recon_in
    hlayout.scratch_in
  rw [State.advance_session, State.writeBytes_session, hdelta, State.mergeInto_advance] at hmerge
  rw [execList_cons_complete (exec_decompress_of hinv h) hrun, execList_cons_complete hmerge hrun, execList,
    State.applyPayload]

end

/-- Settles O40: where the payload decodes, MERGE takes from scratch what RECEIVE merges at once; where it does not, both
forms end at the same stop of the decompress step. -/
theorem receiveEqualsRxcycle : Obligations.ReceiveEqualsRxcycle := by
  unfold Obligations.ReceiveEqualsRxcycle
  intro s answer hinv hrun
  rw [Pseudo.expansion]
  obtain ⟨delta, h⟩ | ⟨t, e, hcpc, hkept, hstop⟩ := State.decodes_or_stops hinv
  · have hreceive : execAnswered .receive answer s = .next (s.applyPayload delta).advance :=
      execAnswered_done (exec_receive_of hinv h) fun req => by simp [State.applyPayload, hrun]
    exact ⟨_, _, execList_decompressMerge_of hinv h answer hrun, hreceive, rfl, .inl ⟨hrun, rfl, rfl⟩⟩
  · have hreceive : execAnswered .receive answer s = .next (t.raiseError e) :=
      execAnswered_done (hstop .receive (.inr rfl)) (by simp)
    exact ⟨_, _, execList_cons_raise (hstop .decompress (.inl rfl)), hreceive, rfl,
      .inr ⟨rfl, rfl, hcpc, hcpc, hkept, hkept⟩⟩

/-- Settles O42: the payload decodes to the XOR of a frame with itself, which is zero, and recon XOR zero is recon. -/
theorem equalCapturesLeaveReconUnchanged : Obligations.EqualCapturesLeaveReconUnchanged := by
  unfold Obligations.EqualCapturesLeaveReconUnchanged
  refine ⟨xorw_self, fun rx frame hinv hcodec hchecked hlen hbody => ?_⟩
  have h : rx.Decodes (xorw frame frame) :=
    ⟨hchecked, (congrArg rx.codec.dec hbody).trans (hcodec _), by simpa using hlen⟩
  refine ⟨_, exec_receive_of hinv h, rfl, ?_⟩
  calc (rx.applyPayload (xorw frame frame)).frameAt rx.session.recon
    _ = xorw (rx.frameAt rx.session.recon) (xorw frame frame) := State.frameAt_applyPayload_recon hinv h
    _ = xorw (rx.frameAt rx.session.recon) (List.replicate (rx.frameAt rx.session.recon).length 0) := by
      rw [xorw_self, hlen, State.frameAt_length]
    _ = rx.frameAt rx.session.recon := xorw_zero _

/-! ### The payload that ITERATE leaves in TXCF (R183, R201) -/

/-- A payload as the bytes of TXCF or RXCF: the header, then the codec's body (R183). -/
def payloadBytes (frameLen : Word) (body : List Byte) : List Byte := le32 frameLen ++ body

@[simp] theorem payloadBytes_length (frameLen : Word) (body : List Byte) :
    (payloadBytes frameLen body).length = 4 + body.length := by simp [payloadBytes]

/-- The first TXCF_SIZE bytes of TXCF are the payload just written (R184). -/
theorem State.readBytes_writePayload {s : State} (hfit : 4 + s.payloadBody.length ≤ s.session.txcfCap.toNat) :
    s.writePayload.txcfSize.toNat = 4 + s.payloadBody.length ∧
      s.writePayload.readBytes s.session.txcfBase.toNat s.writePayload.txcfSize.toNat =
        payloadBytes s.session.frameLen s.payloadBody := by
  have hsize : s.writePayload.txcfSize.toNat = 4 + s.payloadBody.length :=
    (BitVec.toNat_ofNat _ _).trans (Nat.mod_eq_of_lt (hfit.trans_lt s.session.txcfCap.isLt))
  refine ⟨hsize, ?_⟩
  rw [hsize]
  exact State.readBytes_writeBytes_of_length (payloadBytes_length _ _)

/-- DIFF's delta after a capture into `current`, which lies apart from `previous` (R161). -/
theorem State.frameAt_writeDelta_captured {s : State} {frame : List Byte} (h : s.SenderPlaced)
    (hlen : frame.length = s.frameBytes) :
    (s.writeBytes s.curSlot.toNat frame).writeDelta.frameAt s.session.scratch =
      xorw frame (s.frameAt s.prevSlot) := by
  have hcur : (s.writeBytes s.curSlot.toNat frame).frameAt s.curSlot = frame :=
    State.readBytes_writeBytes_of_length hlen
  have hprev : (s.writeBytes s.curSlot.toNat frame).frameAt s.prevSlot = s.frameAt s.prevSlot :=
    State.readBytes_writeBytes_other s (by simpa [hlen] using h.cur_prev)
  calc (s.writeBytes s.curSlot.toNat frame).writeDelta.frameAt s.session.scratch
    _ = xorw ((s.writeBytes s.curSlot.toNat frame).frameAt s.curSlot)
          ((s.writeBytes s.curSlot.toNat frame).frameAt s.prevSlot) :=
      (s.writeBytes s.curSlot.toNat frame).frameAt_writeDelta_scratch
    _ = xorw frame (s.frameAt s.prevSlot) := by rw [hcur, hprev]

/-- A successful ITERATE leaves in TXCF the payload of the captured frame's delta against `previous` (R201). -/
theorem execAnswered_iterate_payload {s sent : State} {frame : List Byte} (hinv : s.Inv) (hrun : s.phase = .run)
    (htx : s.txv = true) (hlen : frame.length = s.frameBytes)
    (hsent : execAnswered .iterate (.ok frame) s = .next sent) (hdone : sent.phase = .run) :
    sent.txcfSize.toNat = 4 + (s.codec.enc (xorw frame (s.frameAt s.prevSlot))).length ∧
      sent.readBytes sent.session.txcfBase.toNat sent.txcfSize.toNat =
        payloadBytes s.session.frameLen (s.codec.enc (xorw frame (s.frameAt s.prevSlot))) := by
  have hplaced : s.SenderPlaced := hinv.session.sender htx
  have hiterate : execAnswered .iterate (.ok frame) s = finishIterate (s.writeBytes s.curSlot.toNat frame) :=
    execAnswered_ok .iterate hrun htx hplaced.cur_in hlen
  obtain ⟨-, -, -, ⟨-, rfl⟩ | ⟨hfit, -, rfl⟩⟩ := finishIterate_next (hiterate.symm.trans hsent)
  · simp at hdone
  · rw [← State.frameAt_writeDelta_captured hplaced hlen]
    exact State.readBytes_writePayload hfit

/-! ### A payload in RXCF (R187, R223) -/

theorem State.readBytes_add (s : State) (a m n : Nat) :
    s.readBytes a (m + n) = s.readBytes a m ++ s.readBytes (a + m) n := by
  simp [State.readBytes, List.range_add, Nat.add_assoc, Function.comp_def]

/-- RXCF holds a payload when its first four bytes read as the frame length and the others are the body (R183, R187). -/
theorem State.rxcf_of_payloadBytes {s : State} {frameLen : Word} {body : List Byte}
    (hsize : s.regs.rxcfSize.toNat = 4 + body.length)
    (h : s.readBytes s.regs.rxcfBase.toNat s.regs.rxcfSize.toNat = payloadBytes frameLen body) :
    s.memRead s.regs.rxcfBase.toNat 4 = frameLen.toNat ∧ s.rxcfBody = body := by
  rw [hsize, State.readBytes_add] at h
  obtain ⟨hheader, hbody⟩ := List.append_inj h (by simp)
  refine ⟨by rw [State.memRead, hheader, leValue_le32], ?_⟩
  rw [State.rxcfBody, hsize, Nat.add_sub_cancel_left, hbody]

/-- Settles O41: RXCF holds the payload of the frame's delta against `previous`, which decodes by the codec's round trip;
recon, equal to `previous`, XOR that delta is the frame. -/
theorem endToEndDelivery : Obligations.EndToEndDelivery := by
  unfold Obligations.EndToEndDelivery
  intro tx rx sent frame htxInv hrxInv hroundTrip hnonEmpty hcodec hrun htx hrx hframeBytes hlen hsent hdone hrecon
    hrxcfSize hrxcfIn hscratch hreconApart hgiven
  have hwhole : (xorw frame (tx.frameAt tx.prevSlot)).length = rx.frameBytes := by simp [hlen, hframeBytes]
  have hpos := hnonEmpty (xorw frame (tx.frameAt tx.prevSlot))
    (by rw [hwhole]; exact le_trans (by decide) (hrxInv.session.receiver hrx).len_pos)
  obtain ⟨hsize, hpayload⟩ := execAnswered_iterate_payload htxInv hrun htx hlen hsent hdone
  rw [← hrxcfSize] at hsize
  obtain ⟨hheader, hbody⟩ := State.rxcf_of_payloadBytes hsize (hgiven.trans hpayload)
  have h : rx.Decodes (xorw frame (tx.frameAt tx.prevSlot)) := {
    checked := State.payloadError_none_of hrx ((rx.inMemory_iff _).2 hrxcfIn) hscratch hreconApart (by omega)
      (hheader.trans hframeBytes.symm)
    decoded := by rw [hbody, hcodec, hroundTrip]
    whole := hwhole }
  refine ⟨_, exec_receive_of hrxInv h, rfl, rfl, ?_⟩
  calc (rx.applyPayload (xorw frame (tx.frameAt tx.prevSlot))).frameAt rx.session.recon
    _ = xorw (rx.frameAt rx.session.recon) (xorw frame (tx.frameAt tx.prevSlot)) :=
      State.frameAt_applyPayload_recon hrxInv h
    _ = xorw (xorw frame (tx.frameAt tx.prevSlot)) (tx.frameAt tx.prevSlot) := by rw [hrecon, xorw_comm]
    _ = frame := xorw_xorw_cancel (by simp [hlen])

end Sys2Proof.Machine
end

section
/-! PROOFS. The error stop (spec 60_exceptions R241), and the interrupt output (R250). -/

namespace Sys2Proof.Machine

/-! ### The error stop (R241) -/

/-- `u` is the error stop of a run of `s`: IDLE, ERR and a code, memory bytes and draws as they may be, and nothing else
changed, CPC included (R241). -/
structure State.ErrorStop (s u : State) : Prop where
  busy : s.busy = true
  code : u.errCode ≠ .noError
  eq : u = { s with phase := .idle, err := true, errCode := u.errCode, mem := u.mem, draws := u.draws }

theorem State.ErrorStop.done {s u : State} (h : s.ErrorStop u) : u.done = s.done := by rw [h.eq]

theorem State.ErrorStop.errIe {s u : State} (h : s.ErrorStop u) : u.errIe = s.errIe := by rw [h.eq]

theorem CommandEffect.errorStop {s u : State} {i : Instr} (h : CommandEffect s i u) (hbusy : s.busy = true)
    (hs : s.err = false) (hu : u.err = true) : s.ErrorStop u := by
  cases h with
  | error _ e m d he => exact ⟨hbusy, he, rfl⟩
  | halt => cases hs.symm.trans hu
  | setup => cases hs.symm.trans hu
  | done _ _ m d p z hdone =>
    subst hdone
    cases hs.symm.trans hu
  | wait => cases hs.symm.trans hu

theorem AnswerEffect.errorStop {s u : State} {req : CaptureRequest} (h : AnswerEffect s req u) (hbusy : s.busy = true)
    (hs : s.err = false) (hu : u.err = true) : s.ErrorStop u := by
  cases h with
  | error e m d he => exact ⟨hbusy, he, rfl⟩
  | done => cases hs.symm.trans hu

theorem EngineEffect.errorStop {s u : State} (h : EngineEffect s u) (hs : s.err = false) (hu : u.err = true) :
    s.ErrorStop u := by
  cases h with
  | none => cases hs.symm.trans hu
  | fetch e hrun _ he => exact ⟨State.busy_of_run hrun, by rcases he with rfl | rfl <;> simp, rfl⟩
  | exec i _ hrun _ _ heff => exact heff.errorStop (State.busy_of_run hrun) hs hu

theorem answerCapture_errorStop {s u : State} {a : CaptureAnswer} (h : answerCapture a s = .next u)
    (hs : s.err = false) (hu : u.err = true) : s.ErrorStop u := by
  obtain ⟨req, hwait, hans⟩ | ⟨-, rfl⟩ := answerCapture_next h
  · exact (answer_effect hans).errorStop (State.busy_of_waitCapture hwait) hs hu
  · cases hs.symm.trans hu

/-- No host write sets ERR (R34, R49, R130). -/
theorem State.writeReg_err {s : State} (hs : s.err = false) (offset : BitVec 8) (size : AccessSize) (v : Word) :
    (s.writeReg offset size v).err = false := by
  rcases s.writeReg_cases offset size v with hw | ⟨-, hw⟩ | ⟨-, -, -, -, hw⟩ | ⟨-, -, hw⟩ | ⟨-, -, hw⟩ | ⟨-, hw⟩ |
    ⟨-, regs, hw⟩ <;> rw [hw] <;> simp [hs]

/-- A step of any agent that sets ERR is an error stop, by the engine or by a capture answer. -/
theorem step_errorStop {s u : State} (h : step s = .next u) (hs : s.err = false) (hu : u.err = true) :
    (s.withTurns s.turns.tail).ErrorStop u := by
  obtain ⟨rest, ⟨hturn, heng⟩ | ⟨offset, size, v, -, rfl⟩ | ⟨-, rfl⟩ | ⟨addr, b, -, -, -, rfl⟩ | ⟨a, hturn, hans⟩ |
    ⟨-, rfl⟩⟩ := step_next h
  · have htail : s.turns.tail = rest := by rcases hturn with hturn | ⟨hturn, rfl⟩ <;> rw [hturn] <;> rfl
    rw [htail]
    exact (engine_effect heng).errorStop hs hu
  · cases (State.writeReg_err (s := s.withTurns rest) hs offset size v).symm.trans hu
  · cases hs.symm.trans hu
  · cases hs.symm.trans hu
  · rw [hturn]
    exact answerCapture_errorStop hans hs hu
  · cases hu

/-- Settles O43: a step that sets ERR is an error stop of a busy state, where R35 has DONE at 0. -/
theorem errorStopKeepsCpc : Obligations.ErrorStopKeepsCpc := by
  unfold Obligations.ErrorStopKeepsCpc
  intro s u h hs hu
  have hstop := step_errorStop h hs hu
  exact ⟨hstop.code, fun hinv => hstop.done.trans (hinv.busyClear hstop.busy).1, hstop.eq⟩

/-! ### The interrupt output (R250) -/

theorem State.irq_of_done {s : State} (hdone : s.done = true) (hie : s.doneIe = true) : s.irq = true := by
  simp [State.irq, hdone, hie]

theorem State.irq_of_err {s : State} (herr : s.err = true) (hie : s.errIe = true) : s.irq = true := by
  simp [State.irq, herr, hie]

theorem State.irq_iff (s : State) :
    s.irq = true ↔ (s.done = true ∧ s.doneIe = true) ∨ (s.err = true ∧ s.errIe = true) := by
  simp [State.irq]

/-- Where nothing that IRQ depends on falls, IRQ does not fall. -/
theorem State.irq_mono {s u : State} (hirq : s.irq = true) (hdone : s.done = true → u.done = true)
    (herr : s.err = true → u.err = true) (hdoneIe : s.doneIe = true → u.doneIe = true)
    (herrIe : s.errIe = true → u.errIe = true) : u.irq = true :=
  u.irq_iff.2 ((s.irq_iff.1 hirq).imp (And.imp hdone hdoneIe) (And.imp herr herrIe))

/-- A command clears neither DONE nor ERR, and writes no enable. -/
theorem CommandEffect.irq {s u : State} {i : Instr} (h : CommandEffect s i u) (hirq : s.irq = true) : u.irq = true := by
  cases h with
  | halt => exact State.irq_mono hirq (fun _ => rfl) id id id
  | setup => exact hirq
  | done _ _ m d p z hu =>
    subst hu
    exact hirq
  | error => exact State.irq_mono hirq id (fun _ => rfl) id id
  | wait => exact hirq

theorem AnswerEffect.irq {s u : State} {req : CaptureRequest} (h : AnswerEffect s req u) (hirq : s.irq = true) :
    u.irq = true := by
  cases h with
  | done => exact hirq
  | error => exact State.irq_mono hirq id (fun _ => rfl) id id

theorem EngineEffect.irq {s u : State} (h : EngineEffect s u) (hirq : s.irq = true) : u.irq = true := by
  cases h with
  | none => exact hirq
  | fetch => exact State.irq_mono hirq id (fun _ => rfl) id id
  | exec i _ _ _ _ heff => exact heff.irq hirq

theorem answerCapture_irq {s u : State} {a : CaptureAnswer} (h : answerCapture a s = .next u) (hirq : s.irq = true) :
    u.irq = true := by
  obtain ⟨req, -, hans⟩ | ⟨-, rfl⟩ := answerCapture_next h
  · exact (answer_effect hans).irq hirq
  · exact hirq

/-- A write to STATUS that clears neither DONE nor ERR keeps IRQ (R34). -/
theorem State.irq_writeStatus {s : State} {v : Word} (hdone : v.getLsbD 1 = false) (herr : v.getLsbD 2 = false) :
    (s.writeStatus v).irq = s.irq := by
  simp only [State.irq, State.writeStatus_done, State.writeStatus_err, State.writeStatus_doneIe,
    State.writeStatus_errIe, hdone, herr, Bool.not_false, Bool.and_true]

/-- The host write that takes IRQ down: START, a clear of DONE or ERR, or an enable written 0 (R34, R36, R130). -/
theorem State.writeReg_irq_falls {s : State} {offset : BitVec 8} {size : AccessSize} {v : Word} (hirq : s.irq = true)
    (hfall : (s.writeReg offset size v).irq = false) :
    size = .word ∧ (offset = 0x00 ∧ v.getLsbD 0 = true ∨
      offset = 0x04 ∧ (v.getLsbD 1 = true ∨ v.getLsbD 2 = true) ∨
      offset = 0x08 ∧ (v.getLsbD 1 = false ∨ v.getLsbD 2 = false)) := by
  have hkeep {u : State} (hw : s.writeReg offset size v = u) (hu : u.irq = true) : False := by
    rw [hw, hu] at hfall
    cases hfall
  obtain hw | ⟨-, hw⟩ | ⟨-, hoff, hsize, hstart, -⟩ | ⟨hoff, hsize, hw⟩ | ⟨hoff, hsize, hw⟩ | ⟨-, hw⟩ | ⟨-, regs, hw⟩ :=
    s.writeReg_cases offset size v
  · exact (hkeep hw hirq).elim
  · exact (hkeep hw hirq).elim
  · exact ⟨hsize, .inl ⟨hoff, hstart⟩⟩
  · refine ⟨hsize, .inr (.inl ⟨hoff, ?_⟩)⟩
    by_contra hclear
    simp only [not_or, Bool.not_eq_true] at hclear
    exact hkeep hw ((State.irq_writeStatus hclear.1 hclear.2).trans hirq)
  · refine ⟨hsize, .inr (.inr ⟨hoff, ?_⟩)⟩
    by_contra henable
    simp only [not_or, Bool.not_eq_false] at henable
    exact hkeep hw (State.irq_mono hirq id id (fun _ => henable.1) fun _ => henable.2)
  · exact (hkeep hw hirq).elim
  · exact (hkeep hw hirq).elim

/-- A step of any agent that takes IRQ down is a host write that does so, or reset. -/
theorem step_irq_falls {s u : State} (h : step s = .next u) (hirq : s.irq = true) (hfall : u.irq = false) :
    (∃ offset size v rest, s.turns = .hostWrite offset size v :: rest ∧
      ((s.withTurns rest).writeReg offset size v).irq = false) ∨ ∃ rest, s.turns = .reset :: rest := by
  obtain ⟨rest, ⟨-, heng⟩ | ⟨offset, size, v, hturn, rfl⟩ | ⟨-, rfl⟩ | ⟨addr, b, -, -, -, rfl⟩ | ⟨a, -, hans⟩ |
    ⟨hturn, rfl⟩⟩ := step_next h
  · cases hfall.symm.trans ((engine_effect heng).irq hirq)
  · exact .inl ⟨offset, size, v, rest, hturn, hfall⟩
  · cases hfall.symm.trans hirq
  · cases hfall.symm.trans hirq
  · cases hfall.symm.trans (answerCapture_irq hans hirq)
  · exact .inr ⟨rest, hturn⟩

/-- Settles O49: HALT sets DONE, an error stop sets ERR, and of the steps that `step_irq_falls` leaves the host
writes are those of `State.writeReg_irq_falls`. -/
theorem irqFollowsStatusAndEnables : Obligations.IrqFollowsStatusAndEnables := by
  unfold Obligations.IrqFollowsStatusAndEnables
  refine ⟨fun s => rfl, fun s u h hie => ?_, fun s u h hs hu hie => ?_, fun s u h hirq hfall => ?_⟩
  · rw [exec_halt] at h
    cases h
    exact State.irq_of_done rfl hie
  · exact State.irq_of_err hu ((step_errorStop h hs hu).errIe.trans hie)
  · refine (step_irq_falls h hirq hfall).imp_left fun ⟨offset, size, v, rest, hturn, hdown⟩ => ?_
    obtain ⟨rfl, hwrite⟩ := State.writeReg_irq_falls (s := s.withTurns rest) hirq hdown
    exact ⟨offset, v, rest, hturn, hwrite⟩

end Sys2Proof.Machine
end

section
/-! PROOFS. The words of the encoding table, and the decoder undoing the encoder on byte sequences (spec 30_encoding
R100, R102, R103, R106). -/

namespace Sys2Proof

/-- Settles O1: every word of the table and of V-DEC evaluates to its command or to the name of its fault. -/
theorem writtenOutWordsDecode : Obligations.WrittenOutWordsDecode := by
  unfold Obligations.WrittenOutWordsDecode
  exact ⟨rfl, rfl, rfl, rfl, rfl, rfl, rfl, rfl, rfl, rfl, rfl, rfl, rfl, rfl, rfl, rfl, rfl, rfl, rfl, rfl, rfl, rfl,
    rfl, rfl⟩

/-- Settles O2: decoding stored bytes is decoding the word they hold, and a well-formed command's word decodes to it. -/
theorem decodeUndoesEncode : Obligations.DecodeUndoesEncode := by
  unfold Obligations.DecodeUndoesEncode
  intro i rest hwf
  rw [encode, decode_le32, decodeWord_encodeWord hwf]

/-- SETUP with neither side is R102's case 4. -/
theorem decodeWord_setup_neither : decodeWord (encodeWord (.setup false false)) = .error .setupNoSide := rfl

namespace Machine

/-- Settles O14: the word is R102's case 4, and the term takes the error stop before any check. -/
theorem setupWithNeitherSideIsIllegal : Obligations.SetupWithNeitherSideIsIllegal := by
  unfold Obligations.SetupWithNeitherSideIsIllegal
  refine ⟨fun i hdec => ?_, fun s => rfl⟩
  rw [decodeWord_setup_neither] at hdec
  cases hdec

end Machine

end Sys2Proof
end

section
/-! PROOFS. The invariant of every run: it holds at reset, and every step of every agent keeps it (spec 10_state R35,
R50, 20_memory R73 to R76, 41_capture R150); the parameters of the implementation, which no step changes (00_scope R8). -/

namespace Sys2Proof.Machine

/-! ### What a step keeps: the parameters (R8) and the session (R50) -/

/-- MEM_SIZE and the codec are the same in both states (R8). -/
structure State.SameInstance (s u : State) : Prop where
  memSize : u.memSize = s.memSize
  codecChoice : u.codecChoice = s.codecChoice

/-- The sides that are set up and the latched values are the same in both states (R50). -/
structure State.SameSession (s u : State) : Prop where
  session : u.session = s.session
  txv : u.txv = s.txv
  rxv : u.rxv = s.rxv

theorem State.SameInstance.of_withTurns {s u : State} {ts : List Turn} (h : (s.withTurns ts).SameInstance u) :
    s.SameInstance u := ⟨h.memSize, h.codecChoice⟩

theorem State.SameSession.of_withTurns {s u : State} {ts : List Turn} (h : (s.withTurns ts).SameSession u) :
    s.SameSession u := ⟨h.session, h.txv, h.rxv⟩

theorem CommandEffect.sameInstance {s u : State} {i : Instr} (h : CommandEffect s i u) : s.SameInstance u := by
  cases h with
  | done _ _ m d p z hu =>
    subst hu
    exact ⟨rfl, rfl⟩
  | halt | setup | error | wait => exact ⟨rfl, rfl⟩

/-- Of the commands only SETUP writes the session. -/
theorem CommandEffect.sameSession {s u : State} {i : Instr} (h : CommandEffect s i u) :
    s.SameSession u ∨ ∃ t r, i = .setup t r := by
  cases h with
  | setup t r => exact .inr ⟨t, r, rfl⟩
  | done _ _ m d p z hu =>
    subst hu
    exact .inl ⟨rfl, rfl, rfl⟩
  | halt | error | wait => exact .inl ⟨rfl, rfl, rfl⟩

theorem AnswerEffect.sameInstance {s u : State} {req : CaptureRequest} (h : AnswerEffect s req u) :
    s.SameInstance u := by
  cases h with
  | done | error => exact ⟨rfl, rfl⟩

theorem AnswerEffect.sameSession {s u : State} {req : CaptureRequest} (h : AnswerEffect s req u) : s.SameSession u := by
  cases h with
  | done | error => exact ⟨rfl, rfl, rfl⟩

theorem EngineEffect.sameInstance {s u : State} (h : EngineEffect s u) : s.SameInstance u := by
  cases h with
  | none | fetch => exact ⟨rfl, rfl⟩
  | exec i _ _ _ _ heff => exact heff.sameInstance

theorem answerCapture_sameInstance {s u : State} {a : CaptureAnswer} (h : answerCapture a s = .next u) :
    s.SameInstance u := by
  obtain ⟨req, -, hans⟩ | ⟨-, rfl⟩ := answerCapture_next h
  · exact (answer_effect hans).sameInstance
  · exact ⟨rfl, rfl⟩

theorem answerCapture_sameSession {s u : State} {a : CaptureAnswer} (h : answerCapture a s = .next u) :
    s.SameSession u := by
  obtain ⟨req, -, hans⟩ | ⟨-, rfl⟩ := answerCapture_next h
  · exact (answer_effect hans).sameSession
  · exact ⟨rfl, rfl, rfl⟩

/-- A host write to the block touches neither the parameters nor the session, neither engine memory nor TXCF_SIZE
(R46, R49). -/
theorem State.writeReg_keeps (s : State) (offset : BitVec 8) (size : AccessSize) (v : Word) :
    s.SameInstance (s.writeReg offset size v) ∧ s.SameSession (s.writeReg offset size v) ∧
      (s.writeReg offset size v).mem = s.mem ∧ (s.writeReg offset size v).txcfSize = s.txcfSize := by
  rcases s.writeReg_cases offset size v with hw | ⟨-, hw⟩ | ⟨-, -, -, -, hw⟩ | ⟨-, -, hw⟩ | ⟨-, -, hw⟩ | ⟨-, hw⟩ |
    ⟨-, regs, hw⟩ <;> rw [hw] <;> exact ⟨⟨rfl, rfl⟩, ⟨rfl, rfl, rfl⟩, rfl, rfl⟩

theorem State.writeReg_sameInstance (s : State) (offset : BitVec 8) (size : AccessSize) (v : Word) :
    s.SameInstance (s.writeReg offset size v) := (s.writeReg_keeps offset size v).1

theorem State.writeReg_sameSession (s : State) (offset : BitVec 8) (size : AccessSize) (v : Word) :
    s.SameSession (s.writeReg offset size v) := (s.writeReg_keeps offset size v).2.1

/-- A host write to the block leaves the phase, or begins a run (R49, R130). -/
theorem State.writeReg_phase (s : State) (offset : BitVec 8) (size : AccessSize) (v : Word) :
    (s.writeReg offset size v).phase = s.phase ∨
      (s.busy = false ∧ offset = 0x00 ∧ size = .word ∧ v.getLsbD 0 = true ∧
        (s.writeReg offset size v).phase = .run) := by
  rcases s.writeReg_cases offset size v with hw | ⟨-, hw⟩ | ⟨hidle, hoff, hsize, hstart, hw⟩ | ⟨-, -, hw⟩ | ⟨-, -, hw⟩ |
    ⟨-, hw⟩ | ⟨-, regs, hw⟩ <;> rw [hw]
  case inr.inr.inl => exact .inr ⟨hidle, hoff, hsize, hstart, rfl⟩
  all_goals exact .inl rfl

theorem step_sameInstance {s u : State} (h : step s = .next u) : s.SameInstance u := by
  obtain ⟨rest, ⟨-, heng⟩ | ⟨offset, size, v, -, rfl⟩ | ⟨-, rfl⟩ | ⟨addr, b, -, -, -, rfl⟩ | ⟨a, -, hans⟩ | ⟨-, rfl⟩⟩ :=
    step_next h
  · exact (engine_effect heng).sameInstance.of_withTurns
  · exact ((s.withTurns rest).writeReg_sameInstance offset size v).of_withTurns
  · exact ⟨rfl, rfl⟩
  · exact ⟨rfl, rfl⟩
  · exact (answerCapture_sameInstance hans).of_withTurns
  · exact ⟨rfl, rfl⟩

/-- Settles O59: `step_sameInstance`, from the shapes that each agent's turn can leave. -/
theorem parametersNeverChange : Obligations.ParametersNeverChange := by
  unfold Obligations.ParametersNeverChange
  intro s t h
  have hsame := step_sameInstance h
  exact ⟨hsame.memSize, hsame.codecChoice⟩

/-! ### Memory: canonical, and inside MEM_SIZE (R8, R73) -/

theorem State.MemoryInv.congr {s u : State} (h : s.MemoryInv) (hmem : u.mem = s.mem) (hsize : u.memSize = s.memSize) :
    u.MemoryInv where
  sizeLow := hsize ▸ h.sizeLow
  sizeHigh := hsize ▸ h.sizeHigh
  wf := hmem ▸ h.wf
  below := by rw [hmem, hsize]; exact h.below

theorem State.MemoryInv.writeBytes {s : State} (h : s.MemoryInv) {a : Nat} {bs : List Byte}
    (hin : a + bs.length ≤ s.memSize) : (s.writeBytes a bs).MemoryInv where
  sizeLow := h.sizeLow
  sizeHigh := h.sizeHigh
  wf := State.writeBytes_wf a bs h.wf
  below := Memory.below_storeBytes hin h.below

theorem State.MemoryInv.scramble {s : State} (h : s.MemoryInv) {a n : Nat} (hin : a + n ≤ s.memSize) :
    (s.scramble a n).MemoryInv :=
  (h.writeBytes (bs := freeBytes s.draws n) (by simpa using hin)).congr rfl rfl

theorem State.MemoryInv.writeAll {s : State} {ws : List (Nat × List Byte)} (h : s.MemoryInv)
    (hin : ∀ w ∈ ws, w.1 + w.2.length ≤ s.memSize) : (s.writeAll ws).MemoryInv := by
  induction ws generalizing s with
  | nil => exact h
  | cons w ws ih =>
    obtain ⟨hw, hws⟩ := List.forall_mem_cons.1 hin
    exact ih (h.writeBytes hw) hws

/-- The delta is one frame long. -/
theorem State.delta_length (s : State) : (xorw (s.frameAt s.curSlot) (s.frameAt s.prevSlot)).length = s.frameBytes := by
  simp

theorem State.MemoryInv.writeDelta {s : State} (h : s.MemoryInv) (hin : s.inMemory s.scratchRange = true) :
    s.writeDelta.MemoryInv :=
  h.writeBytes (by rw [State.delta_length]; exact (s.inMemory_iff _).1 hin)

theorem State.MemoryInv.mergeInto {s : State} (h : s.MemoryInv) {x : List Byte} (hx : x.length = s.frameBytes)
    (hin : s.inMemory s.reconRange = true) : (s.mergeInto x).MemoryInv :=
  h.writeBytes (by rw [xorw_length, State.frameAt_length, hx, min_self]; exact (s.inMemory_iff _).1 hin)

theorem State.MemoryInv.writePayload {s : State} (h : s.MemoryInv) (hin : s.inMemory s.payloadRange = true) :
    s.writePayload.MemoryInv :=
  (h.writeBytes (bs := payloadBytes s.session.frameLen s.payloadBody)
    (by rw [payloadBytes_length]; exact (s.inMemory_iff _).1 hin)).congr rfl rfl

/-- SETUP's writes lie in the ranges that its checks have found in memory; of TXCF the header takes four bytes. -/
theorem State.setupWrites_inMemory {s : State} {t r : Bool} (h : s.setupError t r = none) :
    ∀ w ∈ s.setupWrites t r, w.1 + w.2.length ≤ s.memSize := by
  obtain ⟨-, -, -, hcap, -, hmem, -⟩ := State.setupError_none h
  simp only [State.inMemory_iff] at hmem
  cases t <;> cases r <;>
    simp [State.setupRanges, State.setupBases, State.setupWrites] at hmem hcap ⊢ <;> omega

@[simp] theorem State.writeAll_memSize (s : State) (ws : List (Nat × List Byte)) :
    (s.writeAll ws).memSize = s.memSize := by
  induction ws generalizing s with
  | nil => rfl
  | cons w ws ih => exact ih (s.writeBytes w.1 w.2)

theorem State.MemoryInv.setupSession {s : State} (h : s.MemoryInv) {t r : Bool} (hcheck : s.setupError t r = none) :
    (s.setupSession t r).MemoryInv :=
  (h.writeAll (State.setupWrites_inMemory hcheck)).congr (s.setupSession_mem_eq_writeAll t r)
    (s.writeAll_memSize (s.setupWrites t r)).symm

/-- The part of a range that reset scrambles is in memory, or empty. -/
theorem State.MemoryInv.scrambleRange {s : State} (h : s.MemoryInv) (q : Range) : (s.scrambleRange q).MemoryInv := by
  by_cases hbase : q.base ≤ s.memSize
  · exact h.scramble (by simp only [State.clip]; omega)
  · have hempty : (s.clip q).len = 0 := by simp only [State.clip]; omega
    have hkept : s.scrambleRange q = s := by rw [State.scrambleRange, hempty]; rfl
    rwa [hkept]

theorem State.MemoryInv.scrambleRanges {s : State} (h : s.MemoryInv) (qs : List Range) :
    (qs.foldl State.scrambleRange s).MemoryInv := by
  induction qs generalizing s with
  | nil => exact h
  | cons q qs ih => exact ih (h.scrambleRange q)

@[simp] theorem State.scrambleRanges_memSize (s : State) (qs : List Range) :
    (qs.foldl State.scrambleRange s).memSize = s.memSize := by
  induction qs generalizing s with
  | nil => rfl
  | cons q qs ih => exact ih (s.scrambleRange q)

theorem State.MemoryInv.takeReset {s : State} (h : s.MemoryInv) : s.takeReset.MemoryInv :=
  (h.scrambleRanges s.abortedRanges).congr rfl (s.scrambleRanges_memSize s.abortedRanges).symm

/-- Every write of a command lies in a range that the command has found in memory. -/
theorem exec_memoryInv {i : Instr} {s u : State} (h : exec i s = .next u) (hs : s.MemoryInv) : u.MemoryInv := by
  cases i with
  | halt =>
    cases (exec_halt s).symm.trans h
    exact hs.congr rfl rfl
  | nop =>
    cases (exec_nop s).symm.trans h
    exact hs.congr rfl rfl
  | setup t r =>
    obtain ⟨-, rfl⟩ | ⟨-, e, -, rfl⟩ | ⟨-, hcheck, rfl⟩ := execSetup_next h
    · exact hs.congr rfl rfl
    · exact hs.congr rfl rfl
    · exact (hs.setupSession hcheck).congr rfl rfl
  | capture => obtain ⟨-, rfl⟩ | ⟨-, rfl⟩ := execCapture_next h <;> exact hs.congr rfl rfl
  | swap => obtain ⟨-, rfl⟩ | ⟨-, rfl⟩ := execSwap_next h <;> exact hs.congr rfl rfl
  | iterate => obtain ⟨-, rfl⟩ | ⟨-, rfl⟩ := execIterate_next h <;> exact hs.congr rfl rfl
  | diff =>
    obtain ⟨-, -, -, hscratch, rfl⟩ | ⟨-, rfl⟩ := execDiff_next h
    · exact (hs.writeDelta hscratch).congr rfl rfl
    · exact hs.congr rfl rfl
  | merge =>
    obtain ⟨-, -, hrecon, rfl⟩ | ⟨-, rfl⟩ := execMerge_next h
    · exact (hs.mergeInto (s.frameAt_length _) hrecon).congr rfl rfl
    · exact hs.congr rfl rfl
  | compress =>
    obtain ⟨-, -, ⟨-, rfl⟩ | ⟨-, hpayload, rfl⟩⟩ | ⟨-, rfl⟩ := execCompress_next h
    · exact hs.congr rfl rfl
    · exact (hs.writePayload hpayload).congr rfl rfl
    · exact hs.congr rfl rfl
  | decompress =>
    obtain ⟨e, -, rfl⟩ | ⟨-, hscratch, ⟨-, rfl⟩ | ⟨r, -, hlen, rfl⟩⟩ := execDecompress_next h
    · exact hs.congr rfl rfl
    · exact (hs.scramble ((s.inMemory_iff _).1 hscratch)).congr rfl rfl
    · exact (hs.writeBytes (by rw [hlen]; exact (s.inMemory_iff _).1 hscratch)).congr rfl rfl
  | receive =>
    obtain ⟨e, -, rfl⟩ | ⟨-, hscratch, ⟨-, rfl⟩ | ⟨r, -, hlen, hrecon, rfl⟩⟩ := execReceive_next h
    · exact hs.congr rfl rfl
    · exact (hs.scramble ((s.inMemory_iff _).1 hscratch)).congr rfl rfl
    · have hwrite := hs.writeBytes (a := s.session.scratch.toNat) (bs := r)
        (by rw [hlen]; exact (s.inMemory_iff _).1 hscratch)
      exact (hwrite.mergeInto hlen hrecon).congr rfl rfl

theorem answerRequest_memoryInv {req : CaptureRequest} {a : CaptureAnswer} {s u : State}
    (h : answerRequest req a s = .next u) (hs : s.MemoryInv) : u.MemoryInv := by
  obtain ⟨hin, ⟨-, rfl⟩ | ⟨bytes, -, hlen, hcommand⟩⟩ := answerRequest_next h
  · exact (hs.scramble hin).congr rfl rfl
  · have hcaptured : (s.captured req bytes).MemoryInv :=
      (hs.writeBytes (a := req.base.toNat) (bs := bytes) (by rwa [hlen])).congr rfl rfl
    obtain ⟨-, rfl⟩ | ⟨-, hfinish⟩ := hcommand
    · exact hcaptured.congr rfl rfl
    · obtain ⟨-, -, hscratch, ⟨-, rfl⟩ | ⟨-, hpayload, rfl⟩⟩ := finishIterate_next hfinish
      · exact (hcaptured.writeDelta hscratch).congr rfl rfl
      · exact ((hcaptured.writeDelta hscratch).writePayload hpayload).congr rfl rfl

/-! ### The session: what SETUP has checked (R50, R75, R76, R135), and TXCF_SIZE (R46, R184) -/

theorem State.sessionBases_congr {s u : State} (h : s.SameSession u) : u.sessionBases = s.sessionBases := by
  simp only [State.sessionBases, h.session, h.txv, h.rxv]

theorem State.sessionRanges_congr {s u : State} (h : s.SameSession u) : u.sessionRanges = s.sessionRanges := by
  have hframe : u.frameRange = s.frameRange := by
    funext b
    simp only [State.frameRange, State.frameBytes, h.session]
  simp only [State.sessionRanges, State.sessionBases_congr h, hframe, State.txcfRange, h.session, h.txv]

/-- The session's part of the invariant speaks of the session, the parameters and TXCF_SIZE alone. -/
theorem State.SessionInv.transfer {s u : State} (h : s.SessionInv) (hsession : s.SameSession u)
    (hinst : s.SameInstance u) (hlow : 4 ≤ u.txcfSize.toNat)
    (hhigh : s.txv = true → u.txcfSize.toNat ≤ s.session.txcfCap.toNat) : u.SessionInv where
  frame := by simpa only [hsession.txv, hsession.rxv, State.frameBytes, hsession.session] using h.frame
  aligned := by rw [State.sessionBases_congr hsession]; exact h.aligned
  inMemory := by
    rw [State.sessionRanges_congr hsession]
    simpa only [State.inMemory_iff, hinst.memSize] using h.inMemory
  disjoint := by rw [State.sessionRanges_congr hsession]; exact h.disjoint
  capacity := by
    simpa only [hsession.txv, State.codec, hinst.codecChoice, State.frameBytes, hsession.session] using h.capacity
  sizeLow := hlow
  sizeHigh := by simpa only [hsession.txv, hsession.session] using hhigh

theorem State.SessionInv.congr {s u : State} (h : s.SessionInv) (hsession : s.SameSession u)
    (hinst : s.SameInstance u) (hsize : u.txcfSize = s.txcfSize) : u.SessionInv :=
  h.transfer hsession hinst (hsize ▸ h.sizeLow) (hsize ▸ h.sizeHigh)

/-- A payload that fits in TXCF leaves a TXCF_SIZE within its bounds. -/
theorem State.SessionInv.writePayload {s : State} (h : s.SessionInv)
    (hfit : 4 + s.payloadBody.length ≤ s.session.txcfCap.toNat) : s.writePayload.SessionInv := by
  have hsize := (State.readBytes_writePayload hfit).1
  exact h.transfer ⟨rfl, rfl, rfl⟩ ⟨rfl, rfl⟩ (by omega) (fun _ => by omega)

/-- The frame length that a SETUP with passing checks latches (R135, R136). -/
theorem State.setupSession_frameBytes_eq {s : State} {t r : Bool} (hside : (t || r) = true) (hsize : s.memSize ≤ 2 ^ 32)
    (hcheck : s.setupError t r = none) : (s.setupSession t r).frameBytes = s.setupLen := by
  have hhalf := State.two_mul_setupLen_le hside hcheck
  have hpos := State.setupLen_pos hcheck
  exact (BitVec.toNat_ofNat _ _).trans (Nat.mod_eq_of_lt (by omega))

theorem State.setupSession_sessionBases (s : State) {t r : Bool} (hside : (t || r) = true) :
    (s.setupSession t r).sessionBases = s.setupBases t r := by
  cases t with
  | true => cases r <;> rfl
  | false =>
    obtain rfl : r = true := hside
    rfl

/-- The ranges that a SETUP has checked are those of the session that it constructs. -/
theorem State.setupSession_sessionRanges {s : State} {t r : Bool} (hside : (t || r) = true)
    (hsize : s.memSize ≤ 2 ^ 32) (hcheck : s.setupError t r = none) :
    (s.setupSession t r).sessionRanges = s.setupRanges t r := by
  have hframe : (s.setupSession t r).frameRange = fun b => ⟨b.toNat, s.setupLen⟩ := by
    funext b
    rw [State.frameRange, State.setupSession_frameBytes_eq hside hsize hcheck]
  rw [State.sessionRanges, State.setupSession_sessionBases s hside, hframe, State.setupRanges]
  cases t <;> rfl

/-- A legal geometry has a frame of at least one pair of pixels, in whole words (R135). -/
theorem State.setupLen_words {s : State} {t r : Bool} (hcheck : s.setupError t r = none) :
    8 ≤ s.setupLen ∧ s.setupLen % 8 = 0 := by
  have hpos := State.setupLen_pos hcheck
  obtain ⟨-, -, heven, -⟩ := State.setupError_none hcheck
  obtain ⟨k, hk⟩ := Nat.dvd_of_mod_eq_zero heven
  have hlen : s.setupLen = 8 * (k * s.regs.height.toNat) := by rw [State.setupLen, hk]; ring
  omega

theorem State.SessionInv.setupSession {s : State} {t r : Bool} (h : s.SessionInv) (hside : (t || r) = true)
    (hsize : s.memSize ≤ 2 ^ 32) (hcheck : s.setupError t r = none) : (s.setupSession t r).SessionInv := by
  obtain ⟨-, -, -, hcap, haligned, hmem, hdisjoint⟩ := State.setupError_none hcheck
  have hframe := State.setupSession_frameBytes_eq hside hsize hcheck
  have hbases := s.setupSession_sessionBases hside
  have hranges := State.setupSession_sessionRanges hside hsize hcheck
  refine ⟨fun _ => hframe ▸ State.setupLen_words hcheck, hbases ▸ haligned, hranges ▸ hmem, hranges ▸ hdisjoint,
    fun ht => ?_, ?_, fun ht => ?_⟩
  · obtain rfl : t = true := ht
    rw [hframe]
    exact hcap rfl
  · cases t with
    | true => exact le_refl 4
    | false => exact h.sizeLow
  · obtain rfl : t = true := ht
    exact le_trans (Nat.le_add_right 4 _) (hcap rfl)

theorem exec_sessionInv {i : Instr} {s u : State} (h : exec i s = .next u) (hsize : s.memSize ≤ 2 ^ 32)
    (hs : s.SessionInv) : u.SessionInv := by
  cases exec_effect h with
  | halt => exact hs.congr ⟨rfl, rfl, rfl⟩ ⟨rfl, rfl⟩ rfl
  | setup t r hside hcheck =>
    exact (hs.setupSession hside hsize hcheck).congr ⟨rfl, rfl, rfl⟩ ⟨rfl, rfl⟩ rfl
  | done _ _ m d p z hu _ _ hz =>
    subst hu
    obtain rfl | rfl := hz
    · exact hs.congr ⟨rfl, rfl, rfl⟩ ⟨rfl, rfl⟩ rfl
    · obtain ⟨-, -, ⟨-, hover⟩ | ⟨hfit, -, hdone⟩⟩ | ⟨-, hno⟩ := execCompress_next h
      · rw [hover]
        exact hs.congr ⟨rfl, rfl, rfl⟩ ⟨rfl, rfl⟩ rfl
      · rw [hdone]
        exact (hs.writePayload hfit).congr ⟨rfl, rfl, rfl⟩ ⟨rfl, rfl⟩ rfl
      · rw [hno]
        exact hs.congr ⟨rfl, rfl, rfl⟩ ⟨rfl, rfl⟩ rfl
  | error => exact hs.congr ⟨rfl, rfl, rfl⟩ ⟨rfl, rfl⟩ rfl
  | wait => exact hs.congr ⟨rfl, rfl, rfl⟩ ⟨rfl, rfl⟩ rfl

theorem answerRequest_sessionInv {req : CaptureRequest} {a : CaptureAnswer} {s u : State}
    (h : answerRequest req a s = .next u) (hs : s.SessionInv) : u.SessionInv := by
  obtain ⟨-, ⟨-, rfl⟩ | ⟨bytes, -, -, ⟨-, rfl⟩ | ⟨-, hfinish⟩⟩⟩ := answerRequest_next h
  · exact hs.congr ⟨rfl, rfl, rfl⟩ ⟨rfl, rfl⟩ rfl
  · exact hs.congr ⟨rfl, rfl, rfl⟩ ⟨rfl, rfl⟩ rfl
  · have hdelta : (s.captured req bytes).writeDelta.SessionInv := hs.congr ⟨rfl, rfl, rfl⟩ ⟨rfl, rfl⟩ rfl
    obtain ⟨-, -, -, ⟨-, rfl⟩ | ⟨hfit, -, rfl⟩⟩ := finishIterate_next hfinish
    · exact hdelta.congr ⟨rfl, rfl, rfl⟩ ⟨rfl, rfl⟩ rfl
    · exact (hdelta.writePayload hfit).congr ⟨rfl, rfl, rfl⟩ ⟨rfl, rfl⟩ rfl

/-! ### The request of a wait (R52, R150) -/

theorem State.WaitInv.of_phase_ne {u : State} (h : ∀ req, u.phase ≠ .waitCapture req) : u.WaitInv :=
  fun req hwait => absurd hwait (h req)

theorem State.WaitInv.congr {s u : State} (h : s.WaitInv) (hphase : u.phase = s.phase) (hsession : s.SameSession u)
    (hprevSel : u.prevSel = s.prevSel) : u.WaitInv := by
  intro req hwait
  rw [hsession.txv, State.curSlot, hsession.session, hprevSel]
  exact h req (hphase ▸ hwait)

/-- A command that begins a wait requests the current slot; no other leaves a wait. -/
theorem CommandEffect.waitInv {s u : State} {i : Instr} (h : CommandEffect s i u) (hrun : s.phase = .run) :
    u.WaitInv := by
  cases h with
  | halt => exact .of_phase_ne (by simp)
  | setup => exact .of_phase_ne (by simp [hrun])
  | done _ _ m d p z hu =>
    subst hu
    exact .of_phase_ne (by simp [hrun])
  | error => exact .of_phase_ne (by simp)
  | wait _ c _ htx =>
    intro req hwait
    cases hwait
    exact ⟨htx, rfl, rfl⟩

theorem AnswerEffect.waitInv {s u : State} {req : CaptureRequest} (h : AnswerEffect s req u) : u.WaitInv := by
  cases h with
  | done | error => exact .of_phase_ne (by simp)

theorem State.WaitInv.writeReg {s : State} (h : s.WaitInv) (offset : BitVec 8) (size : AccessSize) (v : Word) :
    (s.writeReg offset size v).WaitInv := by
  obtain hphase | ⟨-, -, -, -, hrun⟩ := s.writeReg_phase offset size v
  · exact h.congr hphase (s.writeReg_sameSession offset size v) (s.writeReg_prevSel offset size v)
  · exact .of_phase_ne (by simp [hrun])

/-! ### The invariant of every run -/

/-- A state that differs in the turns to come alone meets the invariant too. -/
theorem State.Inv.withTurns {s : State} (h : s.Inv) (ts : List Turn) : (s.withTurns ts).Inv where
  status := h.status.withTurns ts
  memory := h.memory.congr rfl rfl
  session := h.session.congr ⟨rfl, rfl, rfl⟩ ⟨rfl, rfl⟩ rfl
  wait := h.wait.congr rfl ⟨rfl, rfl, rfl⟩ rfl

theorem exec_inv {i : Instr} {s u : State} (h : exec i s = .next u) (hrun : s.phase = .run) (hs : s.Inv) : u.Inv where
  status := (exec_effect h).statusInv (hs.status.clear_of_busy (State.busy_of_run hrun))
  memory := exec_memoryInv h hs.memory
  session := exec_sessionInv h hs.memory.sizeHigh hs.session
  wait := (exec_effect h).waitInv hrun

theorem engineStep_inv {s u : State} (h : engineStep s = .next u) (hs : s.Inv) : u.Inv := by
  obtain ⟨-, rfl⟩ | ⟨hrun, ⟨i, -, hexec⟩ | ⟨e, hfetch, rfl⟩⟩ := engineStep_next h
  · exact hs
  · exact exec_inv hexec hrun hs
  · exact {
      status := (engine_effect h).statusInv hs.status
      memory := hs.memory.congr rfl rfl
      session := hs.session.congr ⟨rfl, rfl, rfl⟩ ⟨rfl, rfl⟩ rfl
      wait := .of_phase_ne (by simp) }

theorem answerCapture_inv {s u : State} {a : CaptureAnswer} (h : answerCapture a s = .next u) (hs : s.Inv) : u.Inv := by
  obtain ⟨req, -, hans⟩ | ⟨-, rfl⟩ := answerCapture_next h
  · exact {
      status := answerCapture_statusInv h hs.status
      memory := answerRequest_memoryInv hans hs.memory
      session := answerRequest_sessionInv hans hs.session
      wait := (answer_effect hans).waitInv }
  · exact hs

theorem State.Inv.writeReg {s : State} (h : s.Inv) (offset : BitVec 8) (size : AccessSize) (v : Word) :
    (s.writeReg offset size v).Inv := by
  obtain ⟨hinst, hsession, hmem, htxcfSize⟩ := s.writeReg_keeps offset size v
  exact {
    status := h.status.writeReg offset size v
    memory := h.memory.congr hmem hinst.memSize
    session := h.session.congr hsession hinst htxcfSize
    wait := h.wait.writeReg offset size v }

/-- A host store of one byte in memory. -/
theorem State.Inv.hostStore {s : State} (h : s.Inv) {a : Nat} (b : Byte) (hin : a < s.memSize) :
    (s.writeBytes a [b]).Inv where
  status := h.status.congr rfl rfl rfl rfl
  memory := h.memory.writeBytes hin
  session := h.session.congr ⟨rfl, rfl, rfl⟩ ⟨rfl, rfl⟩ rfl
  wait := h.wait.congr rfl ⟨rfl, rfl, rfl⟩ rfl

/-- With no side set up there is no session to speak of: the register values of reset meet the invariant over any memory
that does (R280). -/
theorem State.Inv.of_powerOn {u : State} (hmemory : u.MemoryInv) (hphase : u.phase = .idle)
    (hclear : u.StatusClear) (htxv : u.txv = false) (hrxv : u.rxv = false) (hsize : u.txcfSize = 4) : u.Inv where
  status := hclear.inv
  memory := hmemory
  session := {
    frame := by simp [htxv, hrxv]
    aligned := by simp [State.sessionBases, htxv, hrxv]
    inMemory := by simp [State.sessionRanges, State.sessionBases, htxv, hrxv]
    disjoint := by simp [State.sessionRanges, State.sessionBases, htxv, hrxv, pairwiseDisjoint]
    capacity := by simp [htxv]
    sizeLow := by simp [hsize]
    sizeHigh := by simp [htxv] }
  wait := .of_phase_ne (by simp [hphase])

/-- At power-on memory has no written byte, and MEM_SIZE is legal (R8). -/
theorem State.reset_memoryInv : State.reset.MemoryInv where
  sizeLow := Nat.le_add_left 16 _
  sizeHigh := Nat.add_le_of_le_sub (by decide) (Nat.le_of_lt_succ Config.memSizeAbove16.isLt)
  wf := State.reset_wf
  below := rfl

/-- Settles O56: at power-on no side is set up, and memory has no written byte. -/
theorem resetMeetsTheInvariant : Obligations.ResetMeetsTheInvariant := by
  unfold Obligations.ResetMeetsTheInvariant
  exact .of_powerOn State.reset_memoryInv rfl ⟨rfl, rfl, rfl⟩ rfl rfl rfl

/-- Settles O57: each turn that `step_next` lists keeps the invariant. -/
theorem everyStepKeepsTheInvariant : Obligations.EveryStepKeepsTheInvariant := by
  unfold Obligations.EveryStepKeepsTheInvariant
  intro s t hs h
  obtain ⟨rest, ⟨-, heng⟩ | ⟨offset, size, v, -, rfl⟩ | ⟨-, rfl⟩ | ⟨addr, b, -, -, hin, rfl⟩ | ⟨a, -, hans⟩ | ⟨-, rfl⟩⟩ :=
    step_next h
  · exact engineStep_inv heng (hs.withTurns rest)
  · exact (hs.withTurns rest).writeReg offset size v
  · exact hs.withTurns rest
  · exact (hs.withTurns rest).hostStore b hin
  · exact answerCapture_inv hans (hs.withTurns rest)
  · exact .of_powerOn (hs.withTurns rest).memory.takeReset rfl ⟨rfl, rfl, rfl⟩ rfl rfl rfl

end Sys2Proof.Machine
end

section
/-! PROOFS. How an engine step ends (spec 40_session_control R131), how a wait and a run end (R132, 41_capture R153, 70
R282), and who writes the session (10_state R50) and TXCF_SIZE (R46). -/

namespace Sys2Proof.Machine

/-! ### The four ways an engine step ends (R131) -/

/-- Settles O5: the shapes of `engine_effect`, in a state where R35 has DONE and ERR at 0. -/
theorem engineStepEndsInOneOfFourWays : Obligations.EngineStepEndsInOneOfFourWays := by
  unfold Obligations.EngineStepEndsInOneOfFourWays
  intro s u hinv hrun hmoves h
  rw [step_engineMoves hmoves] at h
  obtain ⟨hdone, herr, -⟩ := hinv.clear_of_busy (State.busy_of_run hrun)
  cases engine_effect h with
  | none hne => exact absurd hrun hne
  | fetch e _ _ he =>
    exact .inr (.inr (.inl ⟨rfl, rfl, rfl, by rcases he with rfl | rfl <;> simp, hdone⟩))
  | exec i _ _ hfetch _ heff =>
    cases heff with
    | halt => exact .inr (.inl ⟨hfetch, rfl, rfl, herr, rfl⟩)
    | setup t r => exact .inl ⟨⟨_, hfetch, by simp⟩, hrun, rfl, herr, hdone⟩
    | done _ _ m d p z hu hi =>
      subst hu
      exact .inl ⟨⟨i, hfetch, hi.1⟩, hrun, rfl, herr, hdone⟩
    | error _ e m d he => exact .inr (.inr (.inl ⟨rfl, rfl, rfl, he, hdone⟩))
    | wait _ c hi =>
      refine .inr (.inr (.inr ⟨?_, ⟨_, rfl⟩, rfl, herr, hdone⟩))
      exact hi.imp (fun ⟨hcapture, _⟩ => hcapture ▸ hfetch) (fun ⟨hiterate, _⟩ => hiterate ▸ hfetch)

/-! ### The end of a wait (R153) -/

/-- Outside phase RUN the engine has no step (R131, R153; entry 7). -/
theorem engineStep_of_not_run {s : State} (h : s.phase ≠ .run) : engineStep s = .next s := by
  rw [engineStep]
  cases hphase : s.phase with
  | run => exact absurd hphase h
  | idle | waitCapture req => rfl

/-- While busy a host write to the block leaves the phase (R49). -/
theorem State.writeReg_phase_of_busy {s : State} (hb : s.busy = true) (offset : BitVec 8) (size : AccessSize)
    (v : Word) : (s.writeReg offset size v).phase = s.phase :=
  (s.writeReg_phase offset size v).resolve_right fun ⟨hidle, _⟩ => by simp [hb] at hidle

/-- Settles O6: of the turns that `step_next` lists, only an answer and reset change the phase of a wait. -/
theorem waitEndsOnlyByAnswerOrReset : Obligations.WaitEndsOnlyByAnswerOrReset := by
  unfold Obligations.WaitEndsOnlyByAnswerOrReset
  intro s u req hwait h hne
  obtain ⟨rest, ⟨-, heng⟩ | ⟨offset, size, v, -, rfl⟩ | ⟨-, rfl⟩ | ⟨addr, b, -, -, -, rfl⟩ | ⟨a, hturn, -⟩ |
    ⟨hturn, -⟩⟩ := step_next h
  · rw [engineStep_of_not_run (s := s.withTurns rest) (by simp [hwait])] at heng
    cases heng
    exact absurd rfl hne
  · have hbusy : (s.withTurns rest).busy = true := State.busy_of_waitCapture hwait
    exact absurd (State.writeReg_phase_of_busy hbusy offset size v) hne
  · exact absurd rfl hne
  · exact absurd rfl hne
  · exact ⟨rest, .inl ⟨a, hturn⟩⟩
  · exact ⟨rest, .inr hturn⟩

/-- Of any machine, a step that answers the same state does so any number of times. -/
theorem run_of_step_self (M : Host.Core) {x : M.State} (h : M.step x = .next x) (k : Nat) : M.run k x = .next x := by
  induction k with
  | zero => rfl
  | succ k ih =>
    rw [Host.Core.run, h]
    exact ih

/-- Settles O7: the one step of a silent wait answers the same state, and a wait is busy. -/
theorem silentCaptureAgentHangsTheRun : Obligations.SilentCaptureAgentHangsTheRun := by
  unfold Obligations.SilentCaptureAgentHangsTheRun
  intro k s req hwait hturns
  have hstep : step s = .next s := by
    rw [step, nextTurn, hturns]
    exact engineStep_of_not_run (by simp [hwait])
  refine ⟨run_of_step_self core hstep k, ?_⟩
  rw [State.readReg_status, State.statusWord_busy, State.busy_of_waitCapture hwait]

/-! ### The end and the beginning of a run (R130, R132, R282) -/

/-- `u` is the stop of an error in a run with DONE = 0 (R241). -/
def State.StopsWithError (u : State) : Prop := u.err = true ∧ u.errCode ≠ .noError ∧ u.done = false

theorem CommandEffect.run_ends {s u : State} {i : Instr} (h : CommandEffect s i u) (hrun : s.phase = .run)
    (hs : s.StatusClear) (hu : u.busy = false) :
    (i = .halt ∧ u.done = true ∧ u.err = false) ∨ u.StopsWithError := by
  rw [State.busy_eq_false_iff] at hu
  cases h with
  | halt => exact .inl ⟨rfl, rfl, hs.err⟩
  | setup => cases hrun.symm.trans hu
  | done _ _ m d p z hdone =>
    subst hdone
    cases hrun.symm.trans hu
  | error _ e m d he => exact .inr ⟨rfl, he, hs.done⟩
  | wait => cases hu

theorem AnswerEffect.run_ends {s u : State} {req : CaptureRequest} (h : AnswerEffect s req u) (hs : s.StatusClear)
    (hu : u.busy = false) : u.StopsWithError := by
  cases h with
  | done => cases hu
  | error e m d he => exact ⟨rfl, he, hs.done⟩

theorem EngineEffect.run_ends {s u : State} (h : EngineEffect s u) (hbusy : s.busy = true) (hs : s.StatusInv)
    (hu : u.busy = false) :
    (s.phase = .run ∧ s.fetch = .ok .halt ∧ u.done = true ∧ u.err = false) ∨ u.StopsWithError := by
  have hclear := hs.clear_of_busy hbusy
  cases h with
  | none => cases hbusy.symm.trans hu
  | fetch e _ _ he => exact .inr ⟨rfl, by rcases he with rfl | rfl <;> simp, hclear.done⟩
  | exec i _ hrun hfetch _ heff =>
    refine (heff.run_ends hrun hclear hu).imp_left fun ⟨hhalt, hdone, herr⟩ => ⟨hrun, ?_, hdone, herr⟩
    rw [hfetch, hhalt]

theorem answerCapture_run_ends {s u : State} {a : CaptureAnswer} (h : answerCapture a s = .next u)
    (hbusy : s.busy = true) (hs : s.StatusInv) (hu : u.busy = false) : u.StopsWithError := by
  obtain ⟨req, -, hans⟩ | ⟨-, rfl⟩ := answerCapture_next h
  · exact (answer_effect hans).run_ends (hs.clear_of_busy hbusy) hu
  · cases hbusy.symm.trans hu

/-- A run ends by HALT, by an error, or by reset (R132). -/
theorem step_run_ends {s u : State} (hs : s.StatusInv) (hbusy : s.busy = true) (h : step s = .next u)
    (hu : u.busy = false) :
    (u.done = true ∧ u.err = false ∧ s.phase = .run ∧ s.engineMoves ∧ s.fetch = .ok .halt) ∨
      u.StopsWithError ∨ ∃ rest, s.turns = .reset :: rest := by
  obtain ⟨rest, ⟨hturn, heng⟩ | ⟨offset, size, v, -, rfl⟩ | ⟨-, rfl⟩ | ⟨addr, b, -, hidle, -, rfl⟩ | ⟨a, -, hans⟩ |
    ⟨hturn, -⟩⟩ := step_next h
  · obtain ⟨hrun, hfetch, hdone, herr⟩ | herror := (engine_effect heng).run_ends hbusy (hs.withTurns rest) hu
    · exact .inl ⟨hdone, herr, hrun, s.engineMoves_iff.2 ⟨rest, hturn⟩, hfetch⟩
    · exact .inr (.inl herror)
  · have hphase := State.writeReg_phase_of_busy (s := s.withTurns rest) hbusy offset size v
    rw [State.busy, hphase] at hu
    cases hbusy.symm.trans hu
  · cases hbusy.symm.trans hu
  · cases hbusy.symm.trans hidle
  · exact .inr (.inl (answerCapture_run_ends hans hbusy (hs.withTurns rest) hu))
  · exact .inr (.inr ⟨rest, hturn⟩)

/-- A run begins by START (R130, R282). -/
theorem step_run_begins {s u : State} (hidle : s.phase = .idle) (h : step s = .next u) (hu : u.phase ≠ .idle) :
    ∃ v rest, s.turns = .hostWrite 0x00 .word v :: rest ∧ v.getLsbD 0 = true := by
  obtain ⟨rest, ⟨-, heng⟩ | ⟨offset, size, v, hturn, rfl⟩ | ⟨-, rfl⟩ | ⟨addr, b, -, -, -, rfl⟩ | ⟨a, -, hans⟩ | ⟨-, rfl⟩⟩ :=
    step_next h
  · rw [engineStep_of_not_run (s := s.withTurns rest) (by simp [hidle])] at heng
    cases heng
    exact absurd hidle hu
  · obtain hkept | ⟨-, rfl, rfl, hstart, -⟩ := (s.withTurns rest).writeReg_phase offset size v
    · exact absurd (hkept.trans hidle) hu
    · exact ⟨v, rest, hturn, hstart⟩
  · exact absurd hidle hu
  · exact absurd hidle hu
  · obtain ⟨req, hwait, -⟩ | ⟨-, rfl⟩ := answerCapture_next hans
    · cases hidle.symm.trans hwait
    · exact absurd hidle hu
  · exact absurd rfl hu

/-- Settles O8: `step_run_ends` and `step_run_begins`; an engine turn in IDLE is `engineStep_of_not_run`. -/
theorem runEndsOnlyByHaltErrorOrReset : Obligations.RunEndsOnlyByHaltErrorOrReset := by
  unfold Obligations.RunEndsOnlyByHaltErrorOrReset
  refine ⟨fun s u hs hbusy h hu => step_run_ends hs hbusy h hu, fun s u => step_run_begins, fun s hidle hmoves => ?_⟩
  rw [step_engineMoves hmoves, engineStep_of_not_run (by simp [hidle])]
  rfl

/-! ### The writers of the session and of TXCF_SIZE (R46, R50) -/

theorem EngineEffect.sameSession {s u : State} (h : EngineEffect s u) :
    s.SameSession u ∨ (s.phase = .run ∧ ∃ t r, s.fetch = .ok (.setup t r)) := by
  cases h with
  | none | fetch => exact .inl ⟨rfl, rfl, rfl⟩
  | exec i _ hrun hfetch _ heff =>
    exact heff.sameSession.imp_right fun ⟨t, r, hsetup⟩ => ⟨hrun, t, r, hsetup ▸ hfetch⟩

/-- Settles O16: each turn that `step_next` lists keeps the session, or is the engine's SETUP or reset. -/
theorem sessionChangesOnlyBySetup : Obligations.SessionChangesOnlyBySetup := by
  unfold Obligations.SessionChangesOnlyBySetup
  intro s u h
  have hkept : s.SameSession u → u.session = s.session ∧ u.txv = s.txv ∧ u.rxv = s.rxv := fun hsame =>
    ⟨hsame.session, hsame.txv, hsame.rxv⟩
  obtain ⟨rest, ⟨hturn, heng⟩ | ⟨offset, size, v, -, rfl⟩ | ⟨-, rfl⟩ | ⟨addr, b, -, -, -, rfl⟩ | ⟨a, -, hans⟩ |
    ⟨hturn, -⟩⟩ := step_next h
  · obtain hsame | ⟨hrun, hfetch⟩ := (engine_effect heng).sameSession
    · exact .inl (hkept hsame.of_withTurns)
    · exact .inr (.inl ⟨hrun, s.engineMoves_iff.2 ⟨rest, hturn⟩, hfetch⟩)
  · exact .inl (hkept ((s.withTurns rest).writeReg_sameSession offset size v).of_withTurns)
  · exact .inl ⟨rfl, rfl, rfl⟩
  · exact .inl ⟨rfl, rfl, rfl⟩
  · exact .inl (hkept (answerCapture_sameSession hans).of_withTurns)
  · exact .inr (.inr ⟨rest, hturn⟩)

/-- Of the commands only COMPRESS and SETUP with T = 1 write TXCF_SIZE in their own step. -/
theorem CommandEffect.txcfSize {s u : State} {i : Instr} (h : CommandEffect s i u) :
    u.txcfSize = s.txcfSize ∨ i = .compress ∨ (∃ r, i = .setup true r) ∧ u.txcfSize = 4 := by
  cases h with
  | setup t r =>
    cases t with
    | true => exact .inr (.inr ⟨⟨r, rfl⟩, rfl⟩)
    | false => exact .inl rfl
  | done _ _ m d p z hu _ _ hz =>
    subst hu
    exact hz.imp_right .inl
  | halt | error | wait => exact .inl rfl

/-- An answer writes TXCF_SIZE only where it ends an ITERATE. -/
theorem AnswerEffect.txcfSize {s u : State} {req : CaptureRequest} (h : AnswerEffect s req u) :
    u.txcfSize = s.txcfSize ∨ req.command = .iterate := by
  cases h with
  | done m z p hp => exact hp.imp And.right And.left
  | error => exact .inl rfl

theorem EngineEffect.txcfSize {s u : State} (h : EngineEffect s u) :
    u.txcfSize = s.txcfSize ∨ (s.phase = .run ∧ s.fetch = .ok .compress) ∨
      (s.phase = .run ∧ (∃ r, s.fetch = .ok (.setup true r)) ∧ u.txcfSize = 4) := by
  cases h with
  | none | fetch => exact .inl rfl
  | exec i _ hrun hfetch _ heff =>
    obtain hkept | rfl | ⟨⟨r, rfl⟩, hsize⟩ := heff.txcfSize
    · exact .inl hkept
    · exact .inr (.inl ⟨hrun, hfetch⟩)
    · exact .inr (.inr ⟨hrun, ⟨r, hfetch⟩, hsize⟩)

theorem answerCapture_txcfSize {s u : State} {a : CaptureAnswer} (h : answerCapture a s = .next u) :
    u.txcfSize = s.txcfSize ∨ ∃ req, s.phase = .waitCapture req ∧ req.command = .iterate := by
  obtain ⟨req, hwait, hans⟩ | ⟨-, rfl⟩ := answerCapture_next h
  · exact (answer_effect hans).txcfSize.imp_right fun hcommand => ⟨req, hwait, hcommand⟩
  · exact .inl rfl

/-- Settles O18: each turn that `step_next` lists keeps TXCF_SIZE or is one of its writers. -/
theorem txcfSizeWriters : Obligations.TxcfSizeWriters := by
  unfold Obligations.TxcfSizeWriters
  intro s u h hne
  obtain ⟨rest, ⟨hturn, heng⟩ | ⟨offset, size, v, -, rfl⟩ | ⟨-, rfl⟩ | ⟨addr, b, -, -, -, rfl⟩ | ⟨a, hturn, hans⟩ |
    ⟨hturn, rfl⟩⟩ := step_next h
  · have hmoves : s.engineMoves := s.engineMoves_iff.2 ⟨rest, hturn⟩
    obtain hkept | ⟨hrun, hfetch⟩ | ⟨hrun, hfetch, hsize⟩ := (engine_effect heng).txcfSize
    · exact absurd hkept hne
    · exact .inl ⟨hrun, hmoves, hfetch⟩
    · exact .inr (.inr (.inl ⟨hrun, hmoves, hfetch, hsize⟩))
  · exact absurd ((s.withTurns rest).writeReg_keeps offset size v).2.2.2 hne
  · exact absurd rfl hne
  · exact absurd rfl hne
  · obtain hkept | ⟨req, hwait, hcommand⟩ := answerCapture_txcfSize hans
    · exact absurd hkept hne
    · exact .inr (.inl ⟨req, a, rest, hwait, hcommand, hturn⟩)
  · exact .inr (.inr (.inr ⟨⟨rest, hturn⟩, rfl⟩))

end Sys2Proof.Machine
end

section
/-! PROOFS. The delta kernel byte by byte (spec 42_delta R161, R164), its loops over words in any order (R160), and merges
in either order (R168). -/

namespace Sys2Proof.Machine

/-! ### The XOR of two byte ranges, written to a third -/

/-- `WriteBytes(dst, xorw(Bytes(a, n), Bytes(b, n)))`: the form of the delta, of the merge, and of one word of either. -/
def State.writeXor (s : State) (dst a b n : Nat) : State :=
  s.writeBytes dst (xorw (s.readBytes a n) (s.readBytes b n))

theorem State.writeDelta_eq_writeXor (s : State) :
    s.writeDelta = s.writeXor s.session.scratch.toNat s.curSlot.toNat s.prevSlot.toNat s.frameBytes := rfl

theorem State.mergeInto_eq_writeXor (s : State) (b : Word) :
    s.mergeInto (s.frameAt b) = s.writeXor s.session.recon.toNat s.session.recon.toNat b.toNat s.frameBytes := rfl

theorem State.writeXor_outside (s : State) {dst n x : Nat} (a b : Nat) (h : x < dst ∨ dst + n ≤ x) :
    (s.writeXor dst a b n).byteAt x = s.byteAt x :=
  State.byteAt_writeBytes_outside s (by simpa using h)

theorem State.writeXor_inside (s : State) {n i : Nat} (dst a b : Nat) (h : i < n) :
    (s.writeXor dst a b n).byteAt (dst + i) = s.byteAt (a + i) ^^^ s.byteAt (b + i) := by
  rw [State.writeXor, State.byteAt_writeBytes_inside s (by simpa using h), xorw_getElem, State.readBytes_getElem,
    State.readBytes_getElem]

/-- Settles O21: the delta is a `State.writeXor` of the two slots. -/
theorem diffWritesTheDelta : Obligations.DiffWritesTheDelta := by
  unfold Obligations.DiffWritesTheDelta
  intro s htx hcur hprev hscratch
  exact ⟨_, exec_diff_of htx hcur hprev hscratch, rfl, fun i => s.writeXor_inside _ _ _, fun x => s.writeXor_outside _ _⟩

/-- Settles O22: the merge is a `State.writeXor` of recon and scratch. -/
theorem mergeUpdatesRecon : Obligations.MergeUpdatesRecon := by
  unfold Obligations.MergeUpdatesRecon
  intro s hrx hrecon hscratch
  exact ⟨_, exec_merge_of hrx hrecon hscratch, rfl, fun i => s.writeXor_inside _ _ _, fun x => s.writeXor_outside _ _⟩

/-! ### The loop over words (R160, R161, R164) -/

/-- The XOR of two little-endian values is the XOR of their bytes (R160). -/
theorem leBytes_leValue_xor {xs ys : List Byte} (h : xs.length = ys.length) :
    leBytes xs.length (leValue xs ^^^ leValue ys) = xorw xs ys := by
  induction xs generalizing ys with
  | nil => rfl
  | cons x xs ih =>
    cases ys with
    | nil => simp at h
    | cons y ys =>
      have hlow : BitVec.ofNat 8 ((x.toNat + 256 * leValue xs) ^^^ (y.toNat + 256 * leValue ys)) = x ^^^ y := by
        apply BitVec.eq_of_toNat_eq
        have hx : (x.toNat + 256 * leValue xs) % 2 ^ 8 = x.toNat := by omega
        have hy : (y.toNat + 256 * leValue ys) % 2 ^ 8 = y.toNat := by omega
        rw [BitVec.toNat_ofNat, Nat.xor_mod_two_pow, hx, hy, BitVec.toNat_xor]
      have hhigh : ((x.toNat + 256 * leValue xs) ^^^ (y.toNat + 256 * leValue ys)) / 256 =
          leValue xs ^^^ leValue ys := by
        have hx : (x.toNat + 256 * leValue xs) / 2 ^ 8 = leValue xs := by omega
        have hy : (y.toNat + 256 * leValue ys) / 2 ^ 8 = leValue ys := by omega
        exact (Nat.xor_div_two_pow (n := 8)).trans (congrArg₂ (· ^^^ ·) hx hy)
      simp only [List.length_cons, leValue, leBytes, hlow, hhigh, ih (Nat.succ.inj h)]
      rfl

/-- One word of a XOR loop: `MemWrite(dst + 8k, 8, MemRead(a + 8k, 8) ^ MemRead(b + 8k, 8))`. -/
def State.xorWord (dst a b : Nat) (s : State) (k : Nat) : State :=
  s.memWrite (dst + 8 * k) 8 (s.memRead (a + 8 * k) 8 ^^^ s.memRead (b + 8 * k) 8)

theorem State.xorWord_eq_writeXor (s : State) (dst a b k : Nat) :
    s.xorWord dst a b k = s.writeXor (dst + 8 * k) (a + 8 * k) (b + 8 * k) 8 := by
  have hbytes := leBytes_leValue_xor (xs := s.readBytes (a + 8 * k) 8) (ys := s.readBytes (b + 8 * k) 8) (by simp)
  rw [State.readBytes_length] at hbytes
  rw [State.xorWord, State.memWrite, State.memRead, State.memRead, hbytes, State.writeXor]

theorem State.foldl_diffWord (s : State) (order : List Nat) :
    order.foldl State.diffWord s =
      order.foldl (State.xorWord s.session.scratch.toNat s.curSlot.toNat s.prevSlot.toNat) s := by
  induction order generalizing s with
  | nil => rfl
  | cons k ks ih => exact ih (s.diffWord k)

theorem State.foldl_mergeWord (s : State) (order : List Nat) :
    order.foldl State.mergeWord s =
      order.foldl (State.xorWord s.session.recon.toNat s.session.recon.toNat s.session.scratch.toNat) s := by
  induction order generalizing s with
  | nil => rfl
  | cons k ks ih => exact ih (s.mergeWord k)

/-- What stands at an address after a XOR of two ranges. -/
theorem State.lookup_writeXor (s : State) (dst a b n x : Nat) :
    (s.writeXor dst a b n).mem.lookup x =
      if dst ≤ x ∧ x < dst + n then some (s.byteAt (a + (x - dst)) ^^^ s.byteAt (b + (x - dst)))
      else s.mem.lookup x := by
  have hlen : (xorw (s.readBytes a n) (s.readBytes b n)).length = n := by simp
  rw [State.writeXor, State.writeBytes_mem, Memory.lookup_storeBytes, hlen]
  split_ifs with hx
  · rw [List.getElem?_eq_getElem (by omega), xorw_getElem, State.readBytes_getElem, State.readBytes_getElem]
  · rfl

/-- A source of a loop of `n` words: the destination itself, or apart from it. -/
def LoopSource (dst n a : Nat) : Prop := a = dst ∨ a + 8 * n ≤ dst ∨ dst + 8 * n ≤ a

/-- Word `k` of the loop leaves the source of every other word. -/
theorem State.byteAt_xorWord_source {s : State} {dst n c i k : Nat} (a b : Nat) (hc : LoopSource dst n c) (hk : k < n)
    (hi : i / 8 < n) (hne : i / 8 ≠ k) : (s.xorWord dst a b k).byteAt (c + i) = s.byteAt (c + i) := by
  rw [State.xorWord_eq_writeXor]
  refine State.writeXor_outside s _ _ ?_
  rcases hc with rfl | hapart | hapart <;> omega

section
variable {dst a b n : Nat} (ha : LoopSource dst n a) (hb : LoopSource dst n b)
include ha hb

/-- A loop over some words XORs those and leaves every other byte. -/
theorem State.lookup_foldl_xorWord {s : State} {order : List Nat} (hnodup : order.Nodup) (hlt : ∀ k ∈ order, k < n)
    (x : Nat) : (order.foldl (State.xorWord dst a b) s).mem.lookup x =
      if dst ≤ x ∧ (x - dst) / 8 ∈ order then some (s.byteAt (a + (x - dst)) ^^^ s.byteAt (b + (x - dst)))
      else s.mem.lookup x := by
  induction order generalizing s with
  | nil => simp
  | cons k ks ih =>
    obtain ⟨hk, hks⟩ := List.forall_mem_cons.1 hlt
    obtain ⟨hnotin, hnodup⟩ := List.nodup_cons.1 hnodup
    rw [List.foldl_cons, ih hnodup hks]
    by_cases hlater : dst ≤ x ∧ (x - dst) / 8 ∈ ks
    · obtain ⟨hx, hmem⟩ := hlater
      have hne : (x - dst) / 8 ≠ k := fun heq => hnotin (heq ▸ hmem)
      rw [if_pos ⟨hx, hmem⟩, if_pos ⟨hx, List.mem_cons_of_mem k hmem⟩,
        State.byteAt_xorWord_source a b ha hk (hks _ hmem) hne, State.byteAt_xorWord_source a b hb hk (hks _ hmem) hne]
    · rw [if_neg hlater, State.xorWord_eq_writeXor, State.lookup_writeXor]
      by_cases hnow : dst ≤ x ∧ (x - dst) / 8 = k
      · obtain ⟨hx, rfl⟩ := hnow
        rw [if_pos (by omega), if_pos ⟨hx, List.mem_cons_self⟩]
        congr 3 <;> omega
      · rw [if_neg (by omega), if_neg]
        rintro ⟨hx, hmem⟩
        obtain hhead | hmem := List.mem_cons.1 hmem
        · exact hnow ⟨hx, hhead⟩
        · exact hlater ⟨hx, hmem⟩

end

/-- The loop writes memory alone, and keeps its canonical form. -/
theorem State.foldl_xorWord_frame (dst a b : Nat) (s : State) (order : List Nat) :
    order.foldl (State.xorWord dst a b) s = { s with mem := (order.foldl (State.xorWord dst a b) s).mem } ∧
      (s.mem.wf = true → (order.foldl (State.xorWord dst a b) s).mem.wf = true) := by
  induction order generalizing s with
  | nil => exact ⟨rfl, id⟩
  | cons k ks ih =>
    obtain ⟨hframe, hwf⟩ := ih (s.xorWord dst a b k)
    exact ⟨hframe, fun hs => hwf (State.memWrite_wf _ _ _ hs)⟩

/-- In whatever order its words are visited, the loop is the XOR of the whole ranges (R160). -/
theorem State.foldl_xorWord_eq_writeXor {s : State} {dst a b n : Nat} {order : List Nat} (hwf : s.mem.wf = true)
    (ha : LoopSource dst n a) (hb : LoopSource dst n b) (hperm : order.Perm (List.range n)) :
    order.foldl (State.xorWord dst a b) s = s.writeXor dst a b (8 * n) := by
  obtain ⟨hframe, hwfLoop⟩ := State.foldl_xorWord_frame dst a b s order
  have hmem : (order.foldl (State.xorWord dst a b) s).mem = (s.writeXor dst a b (8 * n)).mem := by
    refine Memory.eq_of_lookup_eq (hwfLoop hwf) (State.writeBytes_wf _ _ hwf) fun x => ?_
    have hwords : (dst ≤ x ∧ (x - dst) / 8 ∈ order) ↔ (dst ≤ x ∧ x < dst + 8 * n) := by
      rw [hperm.mem_iff, List.mem_range]
      omega
    rw [State.lookup_foldl_xorWord ha hb (hperm.nodup_iff.2 List.nodup_range)
      (fun k hk => List.mem_range.1 (hperm.mem_iff.1 hk)), State.lookup_writeXor]
    simp only [hwords]
  rw [hframe, hmem]
  rfl

/-- Settles O23: both loops are XOR loops whose sources are the destination or apart from it, by the invariant. -/
theorem wordOrderCannotBeObserved : Obligations.WordOrderCannotBeObserved := by
  unfold Obligations.WordOrderCannotBeObserved
  intro s order hinv hperm
  refine ⟨fun htx => ?_, fun hrx => ?_⟩
  · have hlayout := hinv.session.sender htx
    have hwords : 8 * (s.frameBytes / 8) = s.frameBytes := Nat.mul_div_cancel' (Nat.dvd_of_mod_eq_zero hlayout.len_mod)
    have hcur : LoopSource s.session.scratch.toNat (s.frameBytes / 8) s.curSlot.toNat :=
      .inr (hwords.symm ▸ hlayout.scratch_cur)
    have hprev : LoopSource s.session.scratch.toNat (s.frameBytes / 8) s.prevSlot.toNat :=
      .inr (hwords.symm ▸ hlayout.scratch_prev)
    rw [exec_diff_of htx hlayout.cur_in hlayout.prev_in hlayout.scratch_in, State.foldl_diffWord,
      State.foldl_xorWord_eq_writeXor hinv.memory.wf hcur hprev hperm, hwords, State.writeDelta_eq_writeXor]
  · have hlayout := hinv.session.receiver hrx
    have hwords : 8 * (s.frameBytes / 8) = s.frameBytes := Nat.mul_div_cancel' (Nat.dvd_of_mod_eq_zero hlayout.len_mod)
    have hscratch : LoopSource s.session.recon.toNat (s.frameBytes / 8) s.session.scratch.toNat :=
      .inr (hwords.symm ▸ hlayout.scratch_recon.symm)
    rw [exec_merge_of hrx hlayout.recon_in hlayout.scratch_in, State.foldl_mergeWord,
      State.foldl_xorWord_eq_writeXor hinv.memory.wf (.inl rfl) hscratch hperm, hwords, State.mergeInto_eq_writeXor]

/-! ### Merges in either order (R168) -/

/-- Two merges of whole frames, one after the other. -/
theorem State.frameAt_mergeInto_mergeInto {s : State} {x y : List Byte} (hx : x.length = s.frameBytes)
    (hy : y.length = s.frameBytes) :
    ((s.mergeInto x).mergeInto y).frameAt s.session.recon = xorw (xorw (s.frameAt s.session.recon) x) y := by
  have houter := State.frameAt_mergeInto_recon (s := s.mergeInto x) hy
  rwa [State.mergeInto_session, State.frameAt_mergeInto_recon hx] at houter

/-- The order of two deltas does not matter to their XOR with a frame. -/
theorem xorw_right_comm {r x y : List Byte} (hx : x.length = r.length) (hy : y.length = r.length) :
    xorw (xorw r x) y = xorw (xorw r y) x := by
  rw [xorw_assoc hx.symm (hx.trans hy.symm), xorw_comm x y, ← xorw_assoc hy.symm (hy.trans hx.symm)]

/-- A frame's XOR with a delta gives the delta away. -/
theorem xorw_left_cancel {r x y : List Byte} (hx : x.length = r.length) (hy : y.length = r.length)
    (h : xorw r x = xorw r y) : x = y := by
  rw [xorw_comm r x, xorw_comm r y] at h
  rw [← xorw_xorw_cancel hx, h, xorw_xorw_cancel hy]

/-- Settles O26: the XOR is associative and commutative, and its own inverse. -/
theorem mergesCommute : Obligations.MergesCommute := by
  unfold Obligations.MergesCommute
  rintro r d1 d2 h1 h2 s - - rfl
  have hframe1 : d1.length = s.frameBytes := by rw [h1, State.frameAt_length]
  have hframe2 : d2.length = s.frameBytes := by rw [h2, State.frameAt_length]
  refine ⟨State.frameAt_mergeInto_mergeInto hframe1 hframe2, ?_, fun hne heq => hne ?_⟩
  · rw [State.frameAt_mergeInto_mergeInto hframe2 hframe1, xorw_right_comm h1 h2]
  · rw [State.frameAt_mergeInto_recon hframe1, State.frameAt_mergeInto_recon hframe2] at heq
    exact xorw_left_cancel h1 h2 heq

end Sys2Proof.Machine
end

section
/-! PROOFS. The codec kernel (spec 43_codec): COMPRESS (R183 to R185, R191, R193), DECOMPRESS (R188, R189), and the round
trip of the two (E1, R181). -/

namespace Sys2Proof.Machine

/-! ### COMPRESS where its buffers lie in memory (R185, R191) -/

/-- COMPRESS of a payload that fits asks of the session only where scratch and TXCF lie. -/
theorem exec_compress_of_fits {s : State} (htx : s.txv = true)
    (hscratch : s.session.scratch.toNat + s.frameBytes ≤ s.memSize)
    (hfit : 4 + s.payloadBody.length ≤ s.session.txcfCap.toNat)
    (htxcf : s.session.txcfBase.toNat + s.session.txcfCap.toNat ≤ s.memSize) :
    exec .compress s = .next s.writePayload.advance := by
  have hpayload : s.inMemory s.payloadRange = true :=
    (s.inMemory_iff _).2 ((Nat.add_le_add_left hfit s.session.txcfBase.toNat).trans htxcf)
  change requireTx s (compressThen s complete) = _
  rw [requireTx_true htx, compressThen_of ((s.inMemory_iff _).2 hscratch) hfit hpayload, complete_eq]

theorem exec_compress_of_overflows {s : State} (htx : s.txv = true)
    (hscratch : s.session.scratch.toNat + s.frameBytes ≤ s.memSize)
    (hover : s.session.txcfCap.toNat < 4 + s.payloadBody.length) :
    exec .compress s = .next (s.raiseError .cfOverflow) := by
  change requireTx s (compressThen s complete) = _
  rw [requireTx_true htx, compressThen_overflow ((s.inMemory_iff _).2 hscratch) hover]

/-! ### What the payload writes (R183, R184) -/

/-- The second part of a write reads back behind the first. -/
theorem State.readBytes_writeBytes_append (s : State) (a : Nat) (xs ys : List Byte) :
    (s.writeBytes a (xs ++ ys)).readBytes (a + xs.length) ys.length = ys := by
  have hwhole := s.readBytes_writeBytes_same a (xs ++ ys)
  rw [List.length_append, State.readBytes_add] at hwhole
  exact (List.append_inj hwhole (by simp)).2

theorem State.memRead_writePayload (s : State) :
    s.writePayload.memRead s.session.txcfBase.toNat 4 = s.frameBytes :=
  s.memRead_writeBytes_le32 _ _ _

theorem State.readBytes_writePayload_body (s : State) :
    s.writePayload.readBytes (s.session.txcfBase.toNat + 4) s.payloadBody.length = s.payloadBody :=
  s.readBytes_writeBytes_append _ (le32 s.session.frameLen) s.payloadBody

theorem State.byteAt_writePayload_outside (s : State) {x : Nat}
    (h : x < s.session.txcfBase.toNat ∨ s.session.txcfBase.toNat + (4 + s.payloadBody.length) ≤ x) :
    s.writePayload.byteAt x = s.byteAt x :=
  State.byteAt_writeBytes_outside s (by simpa using h)

/-- Settles O27: the payload is one write, header first, and `TXCF_SIZE` counts it. -/
theorem compressWritesThePayload : Obligations.CompressWritesThePayload := by
  unfold Obligations.CompressWritesThePayload
  intro s htx hscratch body hfit htxcf
  exact ⟨_, exec_compress_of_fits htx hscratch hfit htxcf, rfl, (State.readBytes_writePayload hfit).1,
    s.memRead_writePayload, s.readBytes_writePayload_body, fun x => s.byteAt_writePayload_outside⟩

/-- A lawful codec's body fits in a TXCF that SETUP has checked (R135, R182). -/
theorem State.Inv.body_fits {s : State} (hinv : s.Inv) (hlaw : s.codec.Lawful) (htx : s.txv = true) {x : List Byte}
    (hx : x.length = s.frameBytes) : 4 + (s.codec.enc x).length ≤ s.session.txcfCap.toNat := by
  have hbound := hlaw.bounded x
  have hcap := hinv.session.capacity htx
  rw [hx] at hbound
  omega

/-- Settles O28: a payload beyond the capacity takes the error stop; a lawful codec's is within it, and not empty. -/
theorem overflowOnlyForAnUnlawfulCodec : Obligations.OverflowOnlyForAnUnlawfulCodec := by
  unfold Obligations.OverflowOnlyForAnUnlawfulCodec
  refine ⟨fun s htx hscratch hover => exec_compress_of_overflows htx hscratch hover, fun s hinv hlaw htx => ?_⟩
  have hlayout := hinv.session.sender htx
  have hframe : (s.frameAt s.session.scratch).length = s.frameBytes := s.frameAt_length _
  have hfit : 4 + s.payloadBody.length ≤ s.session.txcfCap.toNat := hinv.body_fits hlaw htx hframe
  have hsize : s.writePayload.advance.txcfSize.toNat = 4 + s.payloadBody.length := (State.readBytes_writePayload hfit).1
  refine ⟨_, exec_compress_of_fits htx hlayout.scratch_in hfit hlayout.txcf_in, rfl, rfl, ?_, ?_⟩
  · have hnonEmpty : 1 ≤ s.payloadBody.length :=
      hlaw.nonEmpty _ (hframe.symm ▸ le_trans (by decide) hlayout.len_pos)
    omega
  · have hbounded : s.payloadBody.length ≤ s.codec.bound s.frameBytes := hframe ▸ hlaw.bounded _
    omega

/-! ### DECOMPRESS (R188, R189) -/

/-- DECOMPRESS of a payload that decodes asks of the session only where scratch lies. -/
theorem exec_decompress_of_decodes {s : State} {r : List Byte} (h : s.Decodes r)
    (hscratch : s.session.scratch.toNat + s.frameBytes ≤ s.memSize) :
    exec .decompress s = .next (s.writeBytes s.session.scratch.toNat r).advance :=
  decompressThen_of h.checked ((s.inMemory_iff _).2 hscratch) h.decoded h.whole

/-- Settles O30: scratch is written with the decoded bytes, and nothing else is. -/
theorem decompressFillsScratch : Obligations.DecompressFillsScratch := by
  unfold Obligations.DecompressFillsScratch
  intro s r hchecked hscratch hdecoded hwhole
  refine ⟨_, exec_decompress_of_decodes ⟨hchecked, hdecoded, hwhole⟩ hscratch, rfl,
    State.readBytes_writeBytes_of_length hwhole, fun x hx => ?_⟩
  exact State.byteAt_writeBytes_outside s (by rwa [hwhole])

/-- Settles O31: the codec stage scrambles scratch, which lies apart from recon, and stops. -/
theorem codecStageFailureTouchesOnlyScratch : Obligations.CodecStageFailureTouchesOnlyScratch := by
  unfold Obligations.CodecStageFailureTouchesOnlyScratch
  intro s i hi hinv hchecked hdec
  have hlayout := State.receiverLayout_of_checked hinv hchecked
  have hframe : ∀ x, (x < s.session.scratch.toNat ∨ s.session.scratch.toNat + s.frameBytes ≤ x) →
      ((s.scramble s.session.scratch.toNat s.frameBytes).raiseError .decompressionFailure).byteAt x = s.byteAt x :=
    fun _ => State.byteAt_scramble_outside s
  exact ⟨_, exec_of_codecFailure hi hchecked hlayout.scratch_in hdec, rfl,
    State.readBytes_eq_of_apart hframe hlayout.scratch_recon, fun k => State.byteAt_scramble_inside s, hframe⟩

/-! ### The round trip (E1) -/

/-- The host points RXCF at the payload in TXCF, and scratch is overwritten. -/
def State.handOver (u : State) (frame : List Byte) : State :=
  { u.writeBytes u.session.scratch.toNat frame with
    regs := { u.regs with rxcfBase := u.session.txcfBase, rxcfSize := u.txcfSize } }

/-- The payload of a frame, handed over in a session with both sides, decodes to the frame (R181, R183, R187). -/
theorem State.decodes_handOver {s : State} {frame : List Byte} (hinv : s.Inv) (hlaw : s.codec.Lawful)
    (htx : s.txv = true) (hrx : s.rxv = true) (hlen : frame.length = s.frameBytes) :
    (s.writePayload.advance.handOver frame).Decodes (s.frameAt s.session.scratch) := by
  have hsend := hinv.session.sender htx
  obtain ⟨-, -, hreconTxcf⟩ := hinv.session.both htx hrx
  have hframe : (s.frameAt s.session.scratch).length = s.frameBytes := s.frameAt_length _
  have hfit : 4 + s.payloadBody.length ≤ s.session.txcfCap.toNat := hinv.body_fits hlaw htx hframe
  have hnonEmpty : 1 ≤ s.payloadBody.length :=
    hlaw.nonEmpty _ (hframe.symm ▸ le_trans (by decide) hsend.len_pos)
  obtain ⟨hsize, hpayload⟩ := State.readBytes_writePayload hfit
  have hin := hsend.txcf_in
  have hscratchTxcf := hsend.scratch_txcf
  have hkept : (s.writePayload.advance.handOver frame).readBytes s.session.txcfBase.toNat
      s.writePayload.txcfSize.toNat = payloadBytes s.session.frameLen s.payloadBody :=
    (State.readBytes_writeBytes_other s.writePayload.advance (by
      rw [State.advance_session, State.writePayload_session]
      omega)).trans hpayload
  obtain ⟨hheader, hbody⟩ := State.rxcf_of_payloadBytes (s := s.writePayload.advance.handOver frame) hsize hkept
  have hrange : (s.writePayload.advance.handOver frame).rxcfRange =
      ⟨s.session.txcfBase.toNat, s.writePayload.txcfSize.toNat⟩ := rfl
  refine ⟨State.payloadError_none_of hrx ?_ ?_ ?_ ?_ hheader, ?_, hframe⟩
  · rw [hrange, State.inMemory_iff]
    change s.session.txcfBase.toNat + s.writePayload.txcfSize.toNat ≤ s.memSize
    omega
  · rw [hrange, Range.overlaps_false_iff]
    change _ ∨ _ ∨ s.session.scratch.toNat + s.frameBytes ≤ s.session.txcfBase.toNat ∨
      s.session.txcfBase.toNat + s.writePayload.txcfSize.toNat ≤ s.session.scratch.toNat
    omega
  · rw [hrange, Range.overlaps_false_iff]
    change _ ∨ _ ∨ s.session.recon.toNat + s.frameBytes ≤ s.session.txcfBase.toNat ∨
      s.session.txcfBase.toNat + s.writePayload.txcfSize.toNat ≤ s.session.recon.toNat
    omega
  · change 4 < s.writePayload.txcfSize.toNat
    omega
  · rw [hbody]
    exact hlaw.roundTrip _

/-- Settles O32: the payload lies in TXCF, apart from scratch and recon, so it is still there to be decoded. -/
theorem compressThenDecompressRoundTrips : Obligations.CompressThenDecompressRoundTrips := by
  unfold Obligations.CompressThenDecompressRoundTrips
  intro s frame hinv hlaw htx hrx hlen
  have hlayout := hinv.session.sender htx
  have hfit : 4 + s.payloadBody.length ≤ s.session.txcfCap.toNat := hinv.body_fits hlaw htx (s.frameAt_length _)
  have hdecodes := State.decodes_handOver hinv hlaw htx hrx hlen
  refine ⟨_, _, exec_compress_of_fits htx hlayout.scratch_in hfit hlayout.txcf_in,
    exec_decompress_of_decodes hdecodes hlayout.scratch_in, rfl, ?_⟩
  exact State.readBytes_writeBytes_of_length hdecodes.whole

end Sys2Proof.Machine
end

section
/-! PROOFS. A capture that succeeds (spec 41_capture R150 to R152), ITERATE to its end or to CF_OVERFLOW (44_sender R201,
R242), and a run of ITERATEs (R204). -/

namespace Sys2Proof.Machine

/-! ### The answer to a request of the current slot (R151) -/

/-- The state in which a command of `s` waits, with the capture agent's `ok` next (R150). -/
def State.awaiting (s : State) (c : WaitingCommand) (bytes : List Byte) (rest : List Turn) : State :=
  { s with
    phase := .waitCapture ⟨s.curSlot, s.session.frameLen, c⟩
    turns := .captureAnswer (.ok bytes) :: rest }

/-- The captured bytes have landed in `current` and the command goes on (R151). -/
def State.landed (s : State) (bytes : List Byte) (rest : List Turn) : State :=
  { s.writeBytes s.curSlot.toNat bytes with phase := .run, turns := rest }

theorem step_awaiting {s : State} {bytes : List Byte} (c : WaitingCommand) (rest : List Turn)
    (hcur : s.curSlot.toNat + s.frameBytes ≤ s.memSize) (hlen : bytes.length = s.frameBytes) :
    step (s.awaiting c bytes rest) = resumeCommand c (s.landed bytes rest) := by
  rw [step_answer (s := s.awaiting c bytes rest) rfl rfl]
  exact answerRequest_ok (s := (s.awaiting c bytes rest).withTurns rest) hcur hlen

/-- Settles O19: the request is the current slot, and the answer's bytes are the one write. -/
theorem captureFillsCurrent : Obligations.CaptureFillsCurrent := by
  unfold Obligations.CaptureFillsCurrent
  intro s bytes rest htx hlen hcur hrun
  refine ⟨_, exec_waitingCommand .capture htx, rfl, (s.landed bytes rest).advance, step_awaiting .capture rest hcur hlen,
    ?_, State.readBytes_writeBytes_of_length hlen, fun x hx => ?_⟩
  · rw [hrun]
    rfl
  · exact State.byteAt_writeBytes_outside s (by rwa [hlen])

/-! ### ITERATE's bytes (R201) -/

theorem State.SenderPlaced.landed {s : State} (h : s.SenderPlaced) (bytes : List Byte) (rest : List Turn) :
    (s.landed bytes rest).SenderPlaced := h

/-- The capture and DIFF leave every byte apart from `current` and scratch. -/
theorem State.byteAt_landed_outside {s : State} {bytes : List Byte} (rest : List Turn) {x : Nat}
    (hlen : bytes.length = s.frameBytes) (hcur : x < s.curSlot.toNat ∨ s.curSlot.toNat + s.frameBytes ≤ x)
    (hscratch : x < s.session.scratch.toNat ∨ s.session.scratch.toNat + s.frameBytes ≤ x) :
    (s.landed bytes rest).writeDelta.byteAt x = s.byteAt x :=
  ((s.landed bytes rest).writeXor_outside _ _ hscratch).trans (State.byteAt_writeBytes_outside s (by rwa [hlen]))

section
variable {s : State} {bytes : List Byte} (h : s.SenderPlaced) (hlen : bytes.length = s.frameBytes) (rest : List Turn)
include h hlen

theorem State.frameAt_landed_scratch :
    (s.landed bytes rest).writeDelta.frameAt s.session.scratch = xorw bytes (s.frameAt s.prevSlot) :=
  State.frameAt_writeDelta_captured h hlen

theorem State.frameAt_landed_cur : (s.landed bytes rest).writeDelta.frameAt s.curSlot = bytes :=
  (State.frameAt_writeDelta_apart (s := s.landed bytes rest) h.scratch_cur).trans
    (State.readBytes_writeBytes_of_length hlen)

theorem State.frameAt_landed_prev : (s.landed bytes rest).writeDelta.frameAt s.prevSlot = s.frameAt s.prevSlot :=
  (State.frameAt_writeDelta_apart (s := s.landed bytes rest) h.scratch_prev).trans
    (State.readBytes_writeBytes_other s (by rw [hlen]; exact h.cur_prev))

/-- The payload of the landed capture is that of its delta against `previous`. -/
theorem State.payloadBody_landed :
    (s.landed bytes rest).writeDelta.payloadBody = s.codec.enc (xorw bytes (s.frameAt s.prevSlot)) :=
  congrArg s.codec.enc (State.frameAt_landed_scratch h hlen rest)

end

/-- A payload that fits leaves every frame apart from TXCF. -/
theorem State.frameAt_writePayload_apart {s : State} {b : Word}
    (hfit : 4 + s.payloadBody.length ≤ s.session.txcfCap.toNat)
    (h : s.session.txcfBase.toNat + s.session.txcfCap.toNat ≤ b.toNat ∨
      b.toNat + s.frameBytes ≤ s.session.txcfBase.toNat) : s.writePayload.frameAt b = s.frameAt b :=
  State.readBytes_eq_of_apart (fun _ => s.byteAt_writePayload_outside) (by
    rw [State.writePayload_frameBytes]
    omega)

/-- Settles O34: the bytes of the capture, the delta and the payload are three writes to places apart from one another. -/
theorem iterateCapturesDiffsCompressesSwaps : Obligations.IterateCapturesDiffsCompressesSwaps := by
  unfold Obligations.IterateCapturesDiffsCompressesSwaps
  intro s bytes rest hinv hrun htx hlen delta body hfits
  have hplaced : s.SenderPlaced := hinv.session.sender htx
  have hbody : (s.landed bytes rest).writeDelta.payloadBody = body := State.payloadBody_landed hplaced hlen rest
  have hfit : 4 + body.length ≤ s.session.txcfCap.toNat :=
    hfits.elim (fun hlaw => hinv.body_fits hlaw htx (by simp [delta, hlen])) id
  have hdelta : (s.landed bytes rest).DeltaFits := by rwa [State.DeltaFits, hbody]
  refine ⟨exec_waitingCommand .iterate htx, _,
    (step_awaiting .iterate rest hplaced.cur_in hlen).trans (finishIterate_of (hplaced.landed bytes rest) hdelta),
    ?_, ?_, ?_, ?_, ?_, ?_, ?_, fun x hcur hscratch htxcf => ?_⟩
  · rw [← hbody, hrun]
    rfl
  · rw [← hbody]
    exact (State.readBytes_writePayload (s := (s.landed bytes rest).writeDelta) hdelta).1
  · exact (State.frameAt_writePayload_apart (s := (s.landed bytes rest).writeDelta) hdelta hplaced.cur_txcf).trans
      (State.frameAt_landed_cur hplaced hlen rest)
  · exact (State.frameAt_writePayload_apart (s := (s.landed bytes rest).writeDelta) hdelta hplaced.prev_txcf).trans
      (State.frameAt_landed_prev hplaced hlen rest)
  · exact (State.frameAt_writePayload_apart (s := (s.landed bytes rest).writeDelta) hdelta hplaced.scratch_txcf).trans
      (State.frameAt_landed_scratch hplaced hlen rest)
  · exact (s.landed bytes rest).writeDelta.memRead_writePayload
  · rw [← hbody]
    exact (s.landed bytes rest).writeDelta.readBytes_writePayload_body
  · exact ((s.landed bytes rest).writeDelta.byteAt_writePayload_outside (by rwa [hbody])).trans
      (State.byteAt_landed_outside rest hlen hcur hscratch)

/-- Settles O35: the compress step stops before it writes, after the capture and the delta. -/
theorem iterateOverflowKeepsThePayload : Obligations.IterateOverflowKeepsThePayload := by
  unfold Obligations.IterateOverflowKeepsThePayload
  intro s bytes rest hinv htx hlen delta hover
  have hplaced : s.SenderPlaced := hinv.session.sender htx
  have hdelta : ¬(s.landed bytes rest).DeltaFits := by
    rw [State.DeltaFits, State.payloadBody_landed hplaced hlen rest]
    exact Nat.not_le.2 hover
  exact ⟨_, (step_awaiting .iterate rest hplaced.cur_in hlen).trans
      (finishIterate_overflow (hplaced.landed bytes rest) hdelta), rfl,
    State.frameAt_landed_cur hplaced hlen rest, State.frameAt_landed_scratch hplaced hlen rest,
    fun x => State.byteAt_landed_outside rest hlen⟩

/-! ### A run of ITERATEs (R204) -/

@[simp] theorem State.prevSlot_advance (s : State) : s.advance.prevSlot = s.prevSlot := rfl

@[simp] theorem State.curSlot_advance (s : State) : s.advance.curSlot = s.curSlot := rfl

theorem execAnswered_inv {i : Instr} {a : CaptureAnswer} {s u : State} (h : execAnswered i a s = .next u)
    (hrun : s.phase = .run) (hs : s.Inv) : u.Inv := by
  cases hexec : exec i s with
  | next t =>
    have ht := exec_inv hexec hrun hs
    rw [execAnswered, hexec] at h
    cases hphase : t.phase with
    | waitCapture req =>
      simp only [hphase] at h
      exact answerCapture_inv h ht
    | idle | run =>
      simp only [hphase] at h
      cases h
      exact ht
  | fault | refused =>
    rw [execAnswered, hexec] at h
    cases h

/-- `u` follows `s` by one ITERATE that captured the frame: `previous` holds it, `current` the old `previous`. -/
structure State.Iterated (s u : State) (frame : List Byte) : Prop where
  inv : u.Inv
  run : u.phase = .run
  txv : u.txv = true
  frameBytes : u.frameBytes = s.frameBytes
  codec : u.codec = s.codec
  prevSel : u.prevSel = !s.prevSel
  prev : u.frameAt u.prevSlot = frame
  cur : u.frameAt u.curSlot = s.frameAt s.prevSlot

section
variable {s : State} (hinv : s.Inv) (hrun : s.phase = .run) (htx : s.txv = true)
include hinv hrun htx

theorem execAnswered_iterate_ok {frame : List Byte} (hlen : frame.length = s.frameBytes) :
    execAnswered .iterate (.ok frame) s = finishIterate (s.landed frame s.turns) := by
  have hland : s.landed frame s.turns = s.writeBytes s.curSlot.toNat frame := by
    rw [State.landed, ← hrun]
    rfl
  rw [hland]
  exact execAnswered_ok .iterate hrun htx (hinv.session.sender htx).cur_in hlen

/-- One ITERATE of a run: it succeeds, always so with a lawful codec, or it stops with `previous` and PREV_SEL kept. -/
theorem execAnswered_iterate_cases {frame : List Byte} (hlen : frame.length = s.frameBytes) :
    ∃ u, execAnswered .iterate (.ok frame) s = .next u ∧
      (s.Iterated u frame ∨ (¬s.codec.Lawful ∧ u.phase ≠ .run ∧ u.prevSel = s.prevSel ∧
        u.frameAt u.prevSlot = s.frameAt s.prevSlot)) := by
  have hplaced : s.SenderPlaced := hinv.session.sender htx
  have hiterate := execAnswered_iterate_ok hinv hrun htx hlen
  by_cases hfit : (s.landed frame s.turns).DeltaFits
  · have hnext := hiterate.trans (finishIterate_of (hplaced.landed frame s.turns) hfit)
    refine ⟨_, hnext, .inl ⟨execAnswered_inv hnext hrun hinv, rfl, htx, rfl, rfl, rfl, ?_, ?_⟩⟩
    · rw [State.prevSlot_advance, State.prevSlot_swapSlots]
      exact (State.frameAt_writePayload_apart (s := (s.landed frame s.turns).writeDelta) hfit hplaced.cur_txcf).trans
        (State.frameAt_landed_cur hplaced hlen s.turns)
    · rw [State.curSlot_advance, State.curSlot_swapSlots]
      exact (State.frameAt_writePayload_apart (s := (s.landed frame s.turns).writeDelta) hfit hplaced.prev_txcf).trans
        (State.frameAt_landed_prev hplaced hlen s.turns)
  · refine ⟨_, hiterate.trans (finishIterate_overflow (hplaced.landed frame s.turns) hfit),
      .inr ⟨fun hlaw => hfit ?_, by simp, rfl, State.frameAt_landed_prev hplaced hlen s.turns⟩⟩
    rw [State.DeltaFits, State.payloadBody_landed hplaced hlen s.turns]
    exact hinv.body_fits hlaw htx (by simp [hlen])

end

/-- A failed capture keeps `previous` and PREV_SEL (R154). -/
theorem execAnswered_iterate_fail {s : State} (hinv : s.Inv) (htx : s.txv = true) :
    ∃ u, execAnswered .iterate .fail s = .next u ∧ u.prevSel = s.prevSel ∧
      u.frameAt u.prevSlot = s.frameAt s.prevSlot := by
  have hplaced : s.SenderPlaced := hinv.session.sender htx
  exact ⟨_, execAnswered_fail .iterate htx hplaced.cur_in, rfl,
    State.readBytes_eq_of_apart (fun _ => State.byteAt_scramble_outside s) hplaced.cur_prev⟩

theorem iterateAll_cons_run {f : List Byte} {fs : List (List Byte)} {s t : State}
    (h : execAnswered .iterate (.ok f) s = .next t) (ht : t.phase = .run) :
    iterateAll (f :: fs) s = iterateAll fs t := by
  simp only [iterateAll, h, if_pos ht]

theorem iterateAll_cons_stop {f : List Byte} {fs : List (List Byte)} {s t : State}
    (h : execAnswered .iterate (.ok f) s = .next t) (ht : t.phase ≠ .run) :
    iterateAll (f :: fs) s = .next t := by
  simp only [iterateAll, h, if_neg ht]

theorem decide_odd_succ (n : Nat) : decide ((n + 1) % 2 = 1) = !decide (n % 2 = 1) := by
  rw [← decide_not, decide_eq_decide]
  omega

/-- After any number of ITERATEs that succeed, the slots hold the last two of what `current` and `previous` held at the
start and the captures after it. -/
theorem iterateAll_slots {frames : List (List Byte)} {s : State} (hinv : s.Inv) (hrun : s.phase = .run)
    (htx : s.txv = true) (hlen : ∀ f ∈ frames, f.length = s.frameBytes) :
    ∃ u, iterateAll frames s = .next u ∧ (s.codec.Lawful → u.phase = .run) ∧
      (u.phase = .run →
        u.prevSel = (s.prevSel ^^ decide (frames.length % 2 = 1)) ∧
        some (u.frameAt u.prevSlot) = (s.frameAt s.curSlot :: s.frameAt s.prevSlot :: frames).getLast? ∧
        some (u.frameAt u.curSlot) =
          (s.frameAt s.curSlot :: s.frameAt s.prevSlot :: frames).dropLast.getLast?) := by
  induction frames generalizing s with
  | nil => exact ⟨s, rfl, fun _ => hrun, fun _ => ⟨by simp, rfl, rfl⟩⟩
  | cons f fs ih =>
    obtain ⟨hf, hfs⟩ := List.forall_mem_cons.1 hlen
    obtain ⟨t, hnext, ht | ⟨hunlawful, hstop, -⟩⟩ := execAnswered_iterate_cases hinv hrun htx hf
    · obtain ⟨u, hall, hlaw, hslots⟩ := ih ht.inv ht.run ht.txv (by rwa [ht.frameBytes])
      refine ⟨u, (iterateAll_cons_run hnext ht.run).trans hall, ht.codec ▸ hlaw, fun hdone => ?_⟩
      obtain ⟨hsel, hprev, hcur⟩ := hslots hdone
      rw [ht.prev, ht.cur] at hprev hcur
      refine ⟨?_, hprev, hcur⟩
      rw [hsel, ht.prevSel, List.length_cons, decide_odd_succ, Bool.not_xor, Bool.xor_not]
    · exact ⟨t, iterateAll_cons_stop hnext hstop, fun hlaw => absurd hlaw hunlawful, fun hdone => absurd hdone hstop⟩

/-- Settles O37: `iterateAll_slots` from a zero `previous` in slot 0; a failed ITERATE by its capture or by its payload. -/
theorem slotsHoldTheLastTwoCaptures : Obligations.SlotsHoldTheLastTwoCaptures := by
  unfold Obligations.SlotsHoldTheLastTwoCaptures
  refine ⟨fun s frames hinv hrun htx hsel hzero hne hlen => ?_, fun s answer hinv hrun htx hlen => ?_⟩
  · obtain ⟨u, hall, hlaw, hslots⟩ := iterateAll_slots hinv hrun htx hlen
    have hprevSlot : s.prevSlot = s.session.slot0 := by rw [State.prevSlot, hsel]; rfl
    rw [hsel, hprevSlot, hzero] at hslots
    obtain ⟨f, fs, rfl⟩ := List.exists_cons_of_ne_nil hne
    refine ⟨u, hall, hlaw, fun hdone => ?_⟩
    obtain ⟨hprevSel, hprev, hcur⟩ := hslots hdone
    exact ⟨by rw [hprevSel, Bool.false_xor], hprev, hcur⟩
  · cases answer with
    | ok bytes =>
      obtain ⟨u, hnext, hdone | ⟨-, -, hkept⟩⟩ := execAnswered_iterate_cases hinv hrun htx (hlen bytes rfl)
      · exact ⟨u, hnext, fun hstop => absurd hdone.run hstop⟩
      · exact ⟨u, hnext, fun _ => hkept⟩
    | fail =>
      obtain ⟨u, hnext, hkept⟩ := execAnswered_iterate_fail hinv htx
      exact ⟨u, hnext, fun _ => hkept⟩

end Sys2Proof.Machine
end

section
/-! PROOFS. The host's side: the STATUS word (spec 10_state R34, 60_exceptions R240), the registers read and written back
(R31, R32, R36 to R48), narrow accesses (R53), and engine memory while idle (20_memory R73, R81). -/

namespace Sys2Proof.Machine

/-! ### Reads of the block (R32, R53) -/

/-- A word read at a register's offset gives the register's value. -/
theorem State.readReg_of_registerAt (s : State) {offset : BitVec 8} {g : Register} (h : registerAt offset = some g) :
    s.readReg offset .word = s.registerValue g := by
  have hfull : fullAccess offset .word = true := by simp [fullAccess, registerAt_aligned h]
  rw [State.readReg, if_pos hfull, h]

/-- A reserved offset reads 0 (R32). -/
theorem State.readReg_reserved (s : State) {offset : BitVec 8} (size : AccessSize) (h : registerAt offset = none) :
    s.readReg offset size = 0 := by
  rw [State.readReg, h]
  exact ite_self _

/-- What a word read gives depends on the register at the offset alone. -/
theorem State.readReg_congr {s u : State} {offset : BitVec 8}
    (h : ∀ g, registerAt offset = some g → u.registerValue g = s.registerValue g) :
    u.readReg offset .word = s.readReg offset .word := by
  cases hreg : registerAt offset with
  | none => rw [State.readReg_reserved _ _ hreg, State.readReg_reserved _ _ hreg]
  | some g => rw [State.readReg_of_registerAt _ hreg, State.readReg_of_registerAt _ hreg, h g hreg]

/-! ### STATUS (R34, R240) -/

theorem State.writeReg_status (s : State) (v : Word) : s.writeReg 0x04 .word v = s.writeStatus v :=
  s.writeReg_of_registerAt v (g := .status) rfl

/-- Settles O48: the fields of the word as `State.statusWord` places them, and the write as `State.writeStatus` has it. -/
theorem statusFieldsAndClearing : Obligations.StatusFieldsAndClearing := by
  unfold Obligations.StatusFieldsAndClearing
  refine ⟨rfl, fun p hp s hcode => ?_, fun s v => ?_⟩
  · rw [State.readReg_status, State.statusWord_errCode, hcode]
    clear hcode
    revert p
    decide
  · rw [State.readReg_status, State.writeReg_status]
    exact ⟨s.statusWord_busy, s.statusWord_done, s.statusWord_err, s.statusWord_wign, s.statusWord_txv,
      s.statusWord_rxv, s.statusWord_prevSel, s.statusWord_reserved7, s.statusWord_reserved16, rfl, rfl, rfl, rfl, rfl⟩

/-! ### Registers written while idle read back (R31, R36 to R48) -/

/-- The registers that the host reads and writes: IRQ_EN, CPC and the configuration registers. -/
def Register.readWrite (g : Register) : Bool := g = .irqEn || g.writableOnlyIdle

/-- The bits of a written word that a register keeps; the others are reserved (R32, R36 to R38). -/
def Register.keptBits : Register → Word
  | .irqEn => 0x6
  | .width | .height => 0xFFFF
  | _ => 0xFFFFFFFF

/-- Where a register stands in the block (R32). -/
def Register.offset : Register → BitVec 8
  | .ctrl => 0x00
  | .status => 0x04
  | .irqEn => 0x08
  | .cpc => 0x0C
  | .width => 0x10
  | .height => 0x14
  | .frameLen => 0x18
  | .slot0Base => 0x1C
  | .slot1Base => 0x20
  | .scratchBase => 0x24
  | .reconBase => 0x28
  | .txcfBase => 0x2C
  | .txcfCap => 0x30
  | .txcfSize => 0x34
  | .rxcfBase => 0x38
  | .rxcfSize => 0x3C

theorem registerAt_eq_some_iff (offset : BitVec 8) (g : Register) : registerAt offset = some g ↔ offset = g.offset := by
  constructor
  · revert offset g
    decide
  · rintro rfl
    cases g <;> rfl

/-- The offsets of the read/write registers, with the bits that each keeps. -/
theorem registerAt_readWrite {offset : BitVec 8}
    (h : offset.toNat ∈ [0x08, 0x0C, 0x10, 0x14, 0x1C, 0x20, 0x24, 0x28, 0x2C, 0x30, 0x38, 0x3C]) :
    ∃ g, registerAt offset = some g ∧ g.readWrite = true ∧
      (if offset = 0x08 then 0x6 else if offset = 0x10 ∨ offset = 0x14 then 0xFFFF else 0xFFFFFFFF) = g.keptBits := by
  have key : ∀ offset : BitVec 8,
      offset.toNat ∈ [0x08, 0x0C, 0x10, 0x14, 0x1C, 0x20, 0x24, 0x28, 0x2C, 0x30, 0x38, 0x3C] →
      (registerAt offset).any (fun g => g.readWrite && decide
        ((if offset = 0x08 then 0x6 else if offset = 0x10 ∨ offset = 0x14 then 0xFFFF else 0xFFFFFFFF) =
          g.keptBits)) = true := by decide
  simpa [Option.any_eq_true] using key offset h

/-- The low 16 bits of a word, as WIDTH and HEIGHT hold them. -/
theorem setWidth_extractLsb'_low16 (v : Word) : (v.extractLsb' 0 16).setWidth 32 = v &&& 0xFFFF := by
  apply BitVec.eq_of_toNat_eq
  have hmask := Nat.and_two_pow_sub_one_eq_mod v.toNat 16
  have hlow : v.toNat % 65536 % 4294967296 = v.toNat % 65536 := by omega
  simpa [BitVec.toNat_and, hlow] using hmask.symm

theorem and_allBits (v : Word) : v &&& 0xFFFFFFFF = v := BitVec.and_allOnes

section
variable {s : State} {g : Register} (hb : s.busy = false) (hg : g.readWrite = true) (v : Word)
include hb hg

/-- An idle write to a read/write register writes IRQ_EN, CPC or a configuration register. -/
theorem State.writeRegister_idle_cases : s.writeRegister v g = s.writeIrqEn v ∨
    s.writeRegister v g = { s with cpc := v } ∨ ∃ regs, s.writeRegister v g = { s with regs := regs } := by
  cases g with
  | ctrl | status | frameLen | txcfSize => cases hg
  | irqEn => exact .inl rfl
  | cpc => exact .inr (.inl (State.writeIdle_idle hb _))
  | width | height | slot0Base | slot1Base | scratchBase | reconBase | txcfBase | txcfCap | rxcfBase | rxcfSize =>
    exact .inr (.inr ⟨_, State.writeIdle_idle hb _⟩)

theorem State.registerValue_writeRegister_same : (s.writeRegister v g).registerValue g = v &&& g.keptBits := by
  cases g with
  | ctrl | status | frameLen | txcfSize => cases hg
  | irqEn => exact s.irqEnWord_writeIrqEn v
  | width | height =>
    rw [State.writeRegister, State.writeIdle_idle hb]
    exact setWidth_extractLsb'_low16 v
  | cpc | slot0Base | slot1Base | scratchBase | reconBase | txcfBase | txcfCap | rxcfBase | rxcfSize =>
    rw [State.writeRegister, State.writeIdle_idle hb]
    exact (and_allBits v).symm

theorem State.registerValue_writeRegister_other {g' : Register} (hne : g' ≠ g) :
    (s.writeRegister v g).registerValue g' = s.registerValue g' := by
  cases g with
  | ctrl | status | frameLen | txcfSize => cases hg
  | irqEn =>
    cases g' with
    | irqEn => exact absurd rfl hne
    | _ => rfl
  | cpc | width | height | slot0Base | slot1Base | scratchBase | reconBase | txcfBase | txcfCap | rxcfBase | rxcfSize =>
    rw [State.writeRegister, State.writeIdle_idle hb]
    cases g' <;> simp [State.registerValue, State.statusWord, State.busy, State.irqEnWord] at hne ⊢

end

/-- Settles O50: the two registers at two offsets differ, and a write to one changes no other's value. -/
theorem registerWritesReadBack : Obligations.RegisterWritesReadBack := by
  unfold Obligations.RegisterWritesReadBack
  refine ⟨fun s => ⟨rfl, s.irqEnWord_doneIe, s.irqEnWord_errIe, s.irqEnWord_reserved, rfl, rfl, rfl, rfl, rfl, rfl, rfl,
    rfl, rfl, rfl, rfl, rfl, rfl, fun offset h => s.readReg_reserved .word (registerAt_eq_none h)⟩,
    fun s offset other v hb hoffset => ?_⟩
  obtain ⟨g, hreg, hg, hmask⟩ := registerAt_readWrite hoffset
  rw [hmask, s.writeReg_of_registerAt v hreg]
  refine ⟨?_, fun hne => State.readReg_congr fun g' hreg' => ?_, ?_⟩
  · rw [State.readReg_of_registerAt _ hreg, State.registerValue_writeRegister_same hb hg]
  · refine State.registerValue_writeRegister_other hb hg v ?_
    rintro rfl
    exact hne (((registerAt_eq_some_iff _ _).1 hreg').trans ((registerAt_eq_some_iff _ _).1 hreg).symm)
  · obtain hw | hw | ⟨regs, hw⟩ := State.writeRegister_idle_cases hb hg v
    · rw [hw, State.writeIrqEn]
    · rw [hw]
    · rw [hw]

/-! ### Narrow and misaligned accesses (R53) -/

theorem fullAccess_eq_false {offset : BitVec 8} {size : AccessSize} (h : size ≠ .word ∨ offset.toNat % 4 ≠ 0) :
    fullAccess offset size = false := by
  rcases h with h | h <;> simp [fullAccess, h]

/-- Settles O51: such an access reaches no register, and the turn of a read does nothing. -/
theorem narrowAccessesAreIgnored : Obligations.NarrowAccessesAreIgnored := by
  unfold Obligations.NarrowAccessesAreIgnored
  refine fun s offset size v rest => ⟨fun hnarrow => ?_, step_turn, step_turn⟩
  have hfull := fullAccess_eq_false hnarrow
  exact ⟨by rw [State.writeReg, hfull]; rfl, by rw [State.readReg, hfull]; rfl⟩

/-! ### Engine memory while idle (R73, R81; entry 10) -/

theorem guardMemory_fault {s : State} {q : Range} (h : s.memSize < q.base + q.len) (k : Result) :
    guardMemory s [q] k = .fault .outsideMemory := by
  rw [guardMemory, if_neg]
  simpa [State.inMemory] using h

theorem hostMemory_idle {s : State} {addr : Word} (hb : s.busy = false) (hin : addr.toNat < s.memSize) (k : Result) :
    hostMemory s addr k = k := by
  have hrange : ∀ q ∈ [(⟨addr.toNat, 1⟩ : Range)], s.inMemory q = true :=
    List.forall_mem_singleton.2 ((s.inMemory_iff _).2 hin)
  rw [hostMemory, hb, guardMemory_of hrange]
  rfl

theorem hostMemory_outside {s : State} {addr : Word} (hb : s.busy = false) (hout : s.memSize ≤ addr.toNat)
    (k : Result) : hostMemory s addr k = .fault .outsideMemory := by
  rw [hostMemory, hb, guardMemory_fault (Nat.lt_succ_of_le hout)]
  rfl

/-- Settles O53: both turns are a `hostMemory` access of an idle engine, and the store is a write of one byte. -/
theorem hostMemoryWhileIdle : Obligations.HostMemoryWhileIdle := by
  unfold Obligations.HostMemoryWhileIdle
  intro s addr b rest hidle
  have hidleRest : (s.withTurns rest).busy = false := hidle
  refine ⟨fun hturn => ?_, fun hturn => ?_⟩
  · rw [step_turn hturn, takeTurn, hostStore]
    refine ⟨fun hin => ⟨_, hostMemory_idle hidleRest hin _, rfl, ?_, fun x hne => ?_⟩,
      fun hout => hostMemory_outside hidleRest hout _⟩
    · exact State.byteAt_writeBytes_inside (s.withTurns rest) (i := 0) (bs := [b]) (by simp)
    · exact State.byteAt_writeBytes_outside (s.withTurns rest) (by rw [List.length_singleton]; omega)
  · rw [step_turn hturn, takeTurn, hostLoad]
    exact ⟨fun hin => hostMemory_idle hidleRest hin _, fun hout => hostMemory_outside hidleRest hout _⟩

end Sys2Proof.Machine
end

section
/-! PROOFS. What a step leaves when it does not complete: RECEIVE to its end and the receiver's errors (spec 45_receiver
R220), the bytes that an error lets change (60_exceptions R242), and the steps that stop the model (20_memory R73, R75,
R83). -/

namespace Sys2Proof.Machine

/-! ### The receiver (R220) -/

/-- The merge into recon leaves scratch, which lies apart, at the decoded delta. -/
theorem State.frameAt_applyPayload_scratch {s : State} {delta : List Byte} (hinv : s.Inv) (h : s.Decodes delta) :
    (s.applyPayload delta).frameAt s.session.scratch = delta := by
  have hlayout := State.receiverLayout_of_checked hinv h.checked
  calc (s.applyPayload delta).frameAt s.session.scratch
    _ = (s.writeBytes s.session.scratch.toNat delta).frameAt s.session.scratch :=
      State.readBytes_writeBytes_other _ (by simpa [h.whole, State.applyPayload] using hlayout.scratch_recon.symm)
    _ = delta := State.readBytes_writeBytes_of_length h.whole

theorem State.byteAt_applyPayload_outside {s : State} {delta : List Byte} {x : Nat} (hwhole : delta.length = s.frameBytes)
    (hscratch : x < s.session.scratch.toNat ∨ s.session.scratch.toNat + s.frameBytes ≤ x)
    (hrecon : x < s.session.recon.toNat ∨ s.session.recon.toNat + s.frameBytes ≤ x) :
    (s.applyPayload delta).byteAt x = s.byteAt x :=
  (State.byteAt_writeBytes_outside (s.writeBytes s.session.scratch.toNat delta) (by simpa [hwhole] using hrecon)).trans
    (State.byteAt_writeBytes_outside s (by rwa [hwhole]))

/-- Settles O38: `State.applyPayload` is the two writes of the rule. -/
theorem receiveAppliesThePayload : Obligations.ReceiveAppliesThePayload := by
  unfold Obligations.ReceiveAppliesThePayload
  intro s r hinv hchecked hdecoded hwhole
  have h : s.Decodes r := ⟨hchecked, hdecoded, hwhole⟩
  exact ⟨_, exec_receive_of hinv h, rfl, State.frameAt_applyPayload_scratch hinv h,
    State.frameAt_applyPayload_recon hinv h, fun x => State.byteAt_applyPayload_outside hwhole⟩

/-- Settles O39: a payload that decodes raises no error, and the common stop of `State.decodes_or_stops` keeps recon. -/
theorem receiverErrorsLeaveRecon : Obligations.ReceiverErrorsLeaveRecon := by
  unfold Obligations.ReceiverErrorsLeaveRecon
  intro s i hi hinv herr
  obtain ⟨delta, h⟩ | ⟨t, e, -, hkept, hstop⟩ := State.decodes_or_stops hinv
  · obtain rfl | rfl := hi
    · exact ⟨_, exec_decompress_of hinv h, fun hu => by cases herr.symm.trans hu⟩
    · exact ⟨_, exec_receive_of hinv h, fun hu => by cases herr.symm.trans hu⟩
  · exact ⟨_, hstop i hi, fun _ => hkept⟩

/-! ### The bytes that a step changes -/

/-- Every byte in which `u` differs from `s` lies in one of the ranges. -/
def State.ChangesOnly (s u : State) (qs : List Range) : Prop :=
  ∀ x, u.byteAt x ≠ s.byteAt x → ∃ q ∈ qs, q.has x = true

theorem Range.not_has_iff (q : Range) (x : Nat) : ¬q.has x = true ↔ x < q.base ∨ q.base + q.len ≤ x := by
  simp only [Range.has, Bool.and_eq_true, decide_eq_true_eq]
  omega

theorem State.ChangesOnly.of_mem_eq {s u : State} (h : u.mem = s.mem) (qs : List Range) : s.ChangesOnly u qs :=
  fun x hx => absurd (State.byteAt_congr h x) hx

/-- A state that agrees outside a range changes only there. -/
theorem State.ChangesOnly.of_frame {s u : State} {q : Range}
    (h : ∀ x, (x < q.base ∨ q.base + q.len ≤ x) → u.byteAt x = s.byteAt x) : s.ChangesOnly u [q] :=
  fun x hx => ⟨q, List.mem_singleton_self q, not_not.1 fun hout => hx (h x ((q.not_has_iff x).1 hout))⟩

theorem State.ChangesOnly.trans {s t u : State} {qs rs : List Range} (hst : s.ChangesOnly t qs)
    (htu : t.ChangesOnly u rs) : s.ChangesOnly u (qs ++ rs) := by
  intro x hx
  by_cases hlater : u.byteAt x = t.byteAt x
  · obtain ⟨q, hq, hhas⟩ := hst x (hlater ▸ hx)
    exact ⟨q, List.mem_append_left rs hq, hhas⟩
  · obtain ⟨q, hq, hhas⟩ := htu x hlater
    exact ⟨q, List.mem_append_right qs hq, hhas⟩

/-! ### Precise errors (R242) -/

/-- The bytes that the error of a command in its own step lets change: none, or scratch at the codec stage. -/
def State.PreciseError (s u : State) : Prop :=
  s.ChangesOnly u [] ∨
    (u.errCode = .decompressionFailure ∧ s.payloadError = none ∧ s.ChangesOnly u [s.scratchRange])

/-- The codec-stage failure (R189). -/
theorem State.PreciseError.of_codecFailure {s : State} (hchecked : s.payloadError = none) :
    s.PreciseError ((s.scramble s.session.scratch.toNat s.frameBytes).raiseError .decompressionFailure) :=
  .inr ⟨rfl, hchecked, .of_frame fun _ => State.byteAt_scramble_outside s⟩

theorem exec_preciseError {i : Instr} {s u : State} (h : exec i s = .next u) (hs : s.err = false) (hu : u.err = true) :
    s.PreciseError u := by
  have hraise : ∀ e, s.PreciseError (s.raiseError e) := fun e => .inl (.of_mem_eq rfl [])
  have hkept : u.err ≠ s.err := by simp [hs, hu]
  cases i with
  | halt =>
    cases (exec_halt s).symm.trans h
    exact absurd rfl hkept
  | nop =>
    cases (exec_nop s).symm.trans h
    exact absurd rfl hkept
  | setup t r =>
    obtain ⟨-, rfl⟩ | ⟨-, e, -, rfl⟩ | ⟨-, -, rfl⟩ := execSetup_next h
    · exact hraise _
    · exact hraise e
    · exact absurd rfl hkept
  | capture =>
    obtain ⟨-, rfl⟩ | ⟨-, rfl⟩ := execCapture_next h
    · exact absurd rfl hkept
    · exact hraise _
  | diff =>
    obtain ⟨-, -, -, -, rfl⟩ | ⟨-, rfl⟩ := execDiff_next h
    · exact absurd rfl hkept
    · exact hraise _
  | compress =>
    obtain ⟨-, -, ⟨-, rfl⟩ | ⟨-, -, rfl⟩⟩ | ⟨-, rfl⟩ := execCompress_next h
    · exact hraise _
    · exact absurd rfl hkept
    · exact hraise _
  | swap =>
    obtain ⟨-, rfl⟩ | ⟨-, rfl⟩ := execSwap_next h
    · exact absurd rfl hkept
    · exact hraise _
  | iterate =>
    obtain ⟨-, rfl⟩ | ⟨-, rfl⟩ := execIterate_next h
    · exact absurd rfl hkept
    · exact hraise _
  | decompress =>
    obtain ⟨e, -, rfl⟩ | ⟨hchecked, -, ⟨-, rfl⟩ | ⟨r, -, -, rfl⟩⟩ := execDecompress_next h
    · exact hraise e
    · exact .of_codecFailure hchecked
    · exact absurd rfl hkept
  | merge =>
    obtain ⟨-, -, -, rfl⟩ | ⟨-, rfl⟩ := execMerge_next h
    · exact absurd rfl hkept
    · exact hraise _
  | receive =>
    obtain ⟨e, -, rfl⟩ | ⟨hchecked, -, ⟨-, rfl⟩ | ⟨r, -, -, -, rfl⟩⟩ := execReceive_next h
    · exact hraise e
    · exact .of_codecFailure hchecked
    · exact absurd rfl hkept

theorem engineStep_preciseError {s u : State} (h : engineStep s = .next u) (hs : s.err = false) (hu : u.err = true) :
    s.PreciseError u := by
  obtain ⟨-, rfl⟩ | ⟨-, ⟨i, -, hexec⟩ | ⟨e, -, rfl⟩⟩ := engineStep_next h
  · cases hs.symm.trans hu
  · exact exec_preciseError hexec hs hu
  · exact .inl (.of_mem_eq rfl [])

/-- The bytes that an error after the capture lets change: the requested range, and scratch too where an ITERATE's payload
does not fit (R154, R201). -/
theorem answerRequest_preciseError {req : CaptureRequest} {a : CaptureAnswer} {s u : State}
    (h : answerRequest req a s = .next u) (hs : s.err = false) (hu : u.err = true) :
    (u.errCode = .captureFailure ∧ s.ChangesOnly u [⟨req.base.toNat, req.len.toNat⟩]) ∨
      (u.errCode = .cfOverflow ∧ req.command = .iterate ∧
        s.ChangesOnly u [⟨req.base.toNat, req.len.toNat⟩, s.scratchRange]) := by
  obtain ⟨-, ⟨-, rfl⟩ | ⟨bytes, -, hlen, ⟨-, rfl⟩ | ⟨hcommand, hfinish⟩⟩⟩ := answerRequest_next h
  · exact .inl ⟨rfl, .of_frame fun _ => s.byteAt_captureFailed_outside⟩
  · cases hs.symm.trans hu
  · have hcaptured : s.ChangesOnly (s.captured req bytes) [⟨req.base.toNat, req.len.toNat⟩] :=
      .of_frame fun x hx => State.byteAt_writeBytes_outside s (by rwa [hlen])
    have hdelta : (s.captured req bytes).ChangesOnly (s.captured req bytes).writeDelta [s.scratchRange] :=
      .of_frame fun x hx => (s.captured req bytes).writeXor_outside _ _ hx
    obtain ⟨-, -, -, ⟨-, rfl⟩ | ⟨-, -, rfl⟩⟩ := finishIterate_next hfinish
    · exact .inr ⟨rfl, hcommand, hcaptured.trans hdelta⟩
    · cases hs.symm.trans hu

/-- The request of a wait is for the current slot. -/
theorem State.WaitInv.request_eq_curRange {s : State} {req : CaptureRequest} (h : s.WaitInv)
    (hwait : s.phase = .waitCapture req) : (⟨req.base.toNat, req.len.toNat⟩ : Range) = s.curRange := by
  obtain ⟨-, hbase, hlen⟩ := h req hwait
  rw [hbase, hlen]
  rfl

/-- Settles O44: an error comes of the engine's step or of an answer, which change what their rule says. -/
theorem errorsArePrecise : Obligations.ErrorsArePrecise := by
  unfold Obligations.ErrorsArePrecise
  intro s u x hinv h hs hu hx
  obtain ⟨rest, ⟨-, heng⟩ | ⟨offset, size, v, -, rfl⟩ | ⟨-, rfl⟩ | ⟨addr, b, -, -, -, rfl⟩ | ⟨a, -, hans⟩ | ⟨-, rfl⟩⟩ :=
    step_next h
  · obtain hnone | ⟨hcode, hchecked, hscratch⟩ := engineStep_preciseError heng hs hu
    · obtain ⟨q, hq, -⟩ := hnone x hx
      cases hq
    · obtain ⟨q, hq, hhas⟩ := hscratch x hx
      obtain rfl := List.mem_singleton.1 hq
      exact .inr (.inl ⟨hcode, hchecked, hhas⟩)
  · cases (State.writeReg_err (s := s.withTurns rest) hs offset size v).symm.trans hu
  · cases hs.symm.trans hu
  · cases hs.symm.trans hu
  · obtain ⟨req, hwait, hreq⟩ | ⟨-, rfl⟩ := answerCapture_next hans
    · have hrange := hinv.wait.request_eq_curRange hwait
      obtain ⟨hcode, hcur⟩ | ⟨hcode, hcommand, hboth⟩ := answerRequest_preciseError hreq hs hu
      · obtain ⟨q, hq, hhas⟩ := hcur x hx
        obtain rfl := List.mem_singleton.1 hq
        exact .inl ⟨hcode, hrange ▸ hhas⟩
      · obtain ⟨q, hq, hhas⟩ := hboth x hx
        refine .inr (.inr ⟨hcode, ⟨req, hwait, hcommand⟩, ?_⟩)
        obtain rfl | hq := List.mem_cons.1 hq
        · exact .inl (hrange ▸ hhas)
        · obtain rfl := List.mem_singleton.1 hq
          exact .inr hhas
    · cases hs.symm.trans hu
  · cases hu

/-! ### The steps that stop the model (R73, R75, R83; entries 8, 10, 11) -/

/-- Where the invariant holds every command answers a next state: its buffers lie in memory (R73, R75). -/
theorem State.Inv.exec_next {s : State} (hinv : s.Inv) (i : Instr) : ∃ u, exec i s = .next u := by
  by_cases hlacks : s.LacksSide i
  · exact ⟨_, exec_of_lacksSide hlacks⟩
  have htx : i ∈ [Instr.capture, .diff, .compress, .swap, .iterate] → s.txv = true := fun hi =>
    Bool.of_not_eq_false fun hno => hlacks (.inl ⟨hi, hno⟩)
  have hrx : i ∈ [Instr.decompress, .merge, .receive] → s.rxv = true := fun hi =>
    Bool.of_not_eq_false fun hno => hlacks (.inr ⟨hi, hno⟩)
  cases i with
  | halt => exact ⟨_, exec_halt s⟩
  | nop => exact ⟨_, exec_nop s⟩
  | setup t r =>
    cases hside : t || r with
    | false => exact ⟨s.raiseError .illegalCmd, by simp [exec, execSetup, Bool.or_eq_false_iff.1 hside]⟩
    | true =>
      cases hcheck : s.setupError t r with
      | none => exact ⟨_, execSetup_of hside hcheck⟩
      | some e => exact ⟨_, execSetup_error hside hcheck⟩
  | capture => exact ⟨_, exec_waitingCommand .capture (htx (by simp))⟩
  | iterate => exact ⟨_, exec_waitingCommand .iterate (htx (by simp))⟩
  | swap => exact ⟨_, exec_swap_of (htx (by simp))⟩
  | diff =>
    have hlayout := hinv.session.sender (htx (by simp))
    exact ⟨_, exec_diff_of (htx (by simp)) hlayout.cur_in hlayout.prev_in hlayout.scratch_in⟩
  | compress =>
    have hplaced : s.SenderPlaced := hinv.session.sender (htx (by simp))
    by_cases hfit : 4 + s.payloadBody.length ≤ s.session.txcfCap.toNat
    · exact ⟨_, exec_compress_of hplaced (htx (by simp)) hfit⟩
    · exact ⟨_, exec_compress_overflow hplaced (htx (by simp)) (Nat.not_le.1 hfit)⟩
  | merge =>
    have hlayout := hinv.session.receiver (hrx (by simp))
    exact ⟨_, exec_merge_of (hrx (by simp)) hlayout.recon_in hlayout.scratch_in⟩
  | decompress =>
    obtain ⟨delta, h⟩ | ⟨t, e, -, -, hstop⟩ := State.decodes_or_stops hinv
    · exact ⟨_, exec_decompress_of hinv h⟩
    · exact ⟨_, hstop .decompress (.inl rfl)⟩
  | receive =>
    obtain ⟨delta, h⟩ | ⟨t, e, -, -, hstop⟩ := State.decodes_or_stops hinv
    · exact ⟨_, exec_receive_of hinv h⟩
    · exact ⟨_, hstop .receive (.inr rfl)⟩

theorem State.Inv.engineStep_next {s : State} (hinv : s.Inv) : ∃ u, engineStep s = .next u := by
  by_cases hrun : s.phase = .run
  · cases hfetch : s.fetch with
    | ok i =>
      obtain ⟨u, hexec⟩ := hinv.exec_next i
      exact ⟨u, (engineStep_of_fetch hrun hfetch).trans hexec⟩
    | error e => exact ⟨_, engineStep_of_fetch_error hrun hfetch⟩
  · exact ⟨s, engineStep_of_not_run hrun⟩

/-- Once the captured bytes have landed, the command that waited answers a next state. -/
theorem State.SenderPlaced.resumeCommand_next {s : State} (h : s.SenderPlaced) (c : WaitingCommand) :
    ∃ u, resumeCommand c s = .next u := by
  cases c with
  | capture => exact ⟨_, complete_eq s⟩
  | iterate =>
    by_cases hfit : s.DeltaFits
    · exact ⟨_, finishIterate_of h hfit⟩
    · exact ⟨_, finishIterate_overflow h hfit⟩

/-- Where the invariant holds an answer of the requested length, or `fail`, answers a next state (R151; entry 8). -/
theorem State.Inv.answerCapture_cases {s : State} (hinv : s.Inv) (a : CaptureAnswer) :
    (∃ u, answerCapture a s = .next u) ∨
      ∃ req bytes, s.phase = .waitCapture req ∧ a = .ok bytes ∧ bytes.length ≠ req.len.toNat ∧
        answerCapture a s = .refused .captureAnswerLength := by
  cases hphase : s.phase with
  | idle | run => exact .inl ⟨s, by simp only [answerCapture, hphase]⟩
  | waitCapture req =>
    obtain ⟨htx, hbase, hlen⟩ := hinv.wait req hphase
    have hplaced : s.SenderPlaced := hinv.session.sender htx
    have hin : req.base.toNat + req.len.toNat ≤ s.memSize := by
      rw [hbase, hlen]
      exact hplaced.cur_in
    have hanswer : answerCapture a s = answerRequest req a s := by simp only [answerCapture, hphase]
    rw [hanswer]
    cases a with
    | fail => exact .inl ⟨_, answerRequest_fail hin⟩
    | ok bytes =>
      by_cases hbytes : bytes.length = req.len.toNat
      · have hcaptured : (s.captured req bytes).SenderPlaced := hplaced
        obtain ⟨u, hresume⟩ := hcaptured.resumeCommand_next req.command
        exact .inl ⟨u, (answerRequest_ok hin hbytes).trans hresume⟩
      · refine .inr ⟨req, bytes, rfl, rfl, hbytes, ?_⟩
        rw [answerRequest, guardMemory_of (by simpa [State.inMemory] using hin)]
        exact if_neg hbytes

/-- A host access answers a next state, is refused while busy, or faults outside memory (R73, R83). -/
theorem hostMemory_cases (s : State) (addr : Word) (t : State) :
    hostMemory s addr (.next t) = .next t ∨
      (s.busy = true ∧ hostMemory s addr (.next t) = .refused .hostMemoryAccessWhileBusy) ∨
      (s.memSize ≤ addr.toNat ∧ hostMemory s addr (.next t) = .fault .outsideMemory) := by
  cases hb : s.busy with
  | true => exact .inr (.inl ⟨rfl, hostMemory_busy hb addr _⟩)
  | false =>
    by_cases hin : addr.toNat < s.memSize
    · exact .inl (hostMemory_idle hb hin _)
    · exact .inr (.inr ⟨Nat.not_lt.1 hin, hostMemory_outside hb (Nat.not_lt.1 hin) _⟩)

/-- The next turn is a host load or store at the address (R81, R82). -/
def State.HostAccessNext (s : State) (addr : Word) (rest : List Turn) : Prop :=
  (∃ b, s.turns = .hostStore addr b :: rest) ∨ s.turns = .hostLoad addr :: rest

/-- Where the invariant holds, the steps that answer no next state. -/
theorem State.Inv.step_cases {s : State} (hinv : s.Inv) :
    (∃ u, step s = .next u) ∨
      (∃ addr rest, s.HostAccessNext addr rest ∧
        ((s.busy = true ∧ step s = .refused .hostMemoryAccessWhileBusy) ∨
          (s.memSize ≤ addr.toNat ∧ step s = .fault .outsideMemory))) ∨
      ∃ req bytes rest, s.phase = .waitCapture req ∧ s.turns = .captureAnswer (.ok bytes) :: rest ∧
        bytes.length ≠ req.len.toNat ∧ step s = .refused .captureAnswerLength := by
  cases hturns : s.turns with
  | nil =>
    rw [step_engine (.inr ⟨hturns, rfl⟩)]
    exact .inl (hinv.withTurns []).engineStep_next
  | cons t rest =>
    rw [step_turn hturns]
    cases t with
    | engine => exact .inl (hinv.withTurns rest).engineStep_next
    | hostWrite | hostRead | lateAnswer | reset => exact .inl ⟨_, rfl⟩
    | hostStore addr b =>
      exact (hostMemory_cases (s.withTurns rest) addr _).imp (fun h => ⟨_, h⟩)
        fun h => .inl ⟨addr, rest, .inl ⟨b, hturns⟩, h⟩
    | hostLoad addr =>
      exact (hostMemory_cases (s.withTurns rest) addr _).imp (fun h => ⟨_, h⟩)
        fun h => .inl ⟨addr, rest, .inr hturns, h⟩
    | captureAnswer a =>
      obtain hnext | ⟨req, bytes, hwait, rfl, hlen, hrefused⟩ := (hinv.withTurns rest).answerCapture_cases a
      · exact .inl hnext
      · exact .inr (.inr ⟨req, bytes, rest, hwait, rfl, hlen, hrefused⟩)

/-- Settles O60: of the steps that `State.Inv.step_cases` lists, by the stop that each makes. -/
theorem invariantStatesFaultOnlyByHostAccess : Obligations.InvariantStatesFaultOnlyByHostAccess := by
  unfold Obligations.InvariantStatesFaultOnlyByHostAccess
  intro s hinv
  obtain ⟨u, hstep⟩ | ⟨addr, rest, haccess, ⟨hbusy, hstep⟩ | ⟨hout, hstep⟩⟩ |
    ⟨req, bytes, rest, hwait, hturns, hlen, hstep⟩ := hinv.step_cases <;> rw [hstep]
  · exact ⟨nofun, nofun⟩
  · refine ⟨nofun, fun f hf => ?_⟩
    cases hf
    exact .inl ⟨rfl, hbusy, addr, rest, haccess⟩
  · exact ⟨fun f _ => ⟨addr, rest, haccess, hout⟩, nofun⟩
  · refine ⟨nofun, fun f hf => ?_⟩
    cases hf
    exact .inr ⟨rfl, req, bytes, rest, hwait, hturns, hlen⟩

end Sys2Proof.Machine
end

section
/-! PROOFS. The reset input (spec 70_reset_and_hazards): the registers of R280, and the bytes that R281 lets change. -/

namespace Sys2Proof.Machine

/-! ### The registers after reset (R280) -/

/-- The register values of R280's table: TXCF_SIZE is 4, every other register 0. -/
def State.RegistersReset (u : State) : Prop := ∀ g, u.registerValue g = if g = .txcfSize then 4 else 0

/-- What is kept across a reset, the memory, the draws and the turns, shows in no register. -/
theorem State.registersReset_powerOn (memSize : Nat) (codec : CodecChoice) (m : Memory) (d : Nat) (ts : List Turn) :
    State.RegistersReset { State.powerOn memSize codec with mem := m, draws := d, turns := ts } := by
  intro g
  cases g with
  | status => simp [State.registerValue, State.statusWord, State.powerOn, State.busy, ErrorCode.toBits]
  | irqEn => simp [State.registerValue, State.irqEnWord, State.powerOn]
  | _ => rfl

theorem State.RegistersReset.readReg {u : State} (h : u.RegistersReset) (offset : BitVec 8) :
    u.readReg offset .word = if offset = 0x34 then 4 else 0 := by
  cases hreg : registerAt offset with
  | some g =>
    rw [u.readReg_of_registerAt hreg, h g, (registerAt_eq_some_iff offset g).1 hreg]
    cases g <;> rfl
  | none =>
    have hne : offset ≠ 0x34 := by
      rintro rfl
      cases hreg
    rw [u.readReg_reserved .word hreg, if_neg hne]

/-- No command is aborted in an idle engine (entry 12). -/
theorem State.abortedRanges_idle {s : State} (h : s.phase = .idle) : s.abortedRanges = [] := by
  rw [State.abortedRanges, h]

theorem step_reset {s : State} {rest : List Turn} (h : s.turns = .reset :: rest) :
    step s = .next (s.withTurns rest).takeReset := step_turn h

/-- Settles O54: power-on and reset both give `State.RegistersReset`, and an idle engine's reset scrambles no range. -/
theorem resetGivesTheTable : Obligations.ResetGivesTheTable := by
  unfold Obligations.ResetGivesTheTable
  refine ⟨(State.registersReset_powerOn _ _ _ _ _).readReg, rfl, rfl, fun s rest hturns => ?_⟩
  refine ⟨_, step_reset hturns, (State.registersReset_powerOn _ _ _ _ _).readReg, rfl, rfl, rfl, fun hidle => ?_⟩
  have hnone := State.abortedRanges_idle (s := s.withTurns rest) (s.busy_eq_false_iff.1 hidle)
  change ((s.withTurns rest).abortedRanges.foldl State.scrambleRange (s.withTurns rest)).mem = s.mem
  rw [hnone]
  rfl

/-! ### The bytes that a reset lets change (R281) -/

theorem State.scrambleRange_changesOnly (s : State) (q : Range) : s.ChangesOnly (s.scrambleRange q) [q] := by
  refine .of_frame fun x hx => State.byteAt_scramble_outside s ?_
  have hclip : (s.clip q).len ≤ q.len := Nat.min_le_left _ _
  exact hx.imp_right fun hout => le_trans (Nat.add_le_add_left hclip q.base) hout

theorem State.scrambleRanges_changesOnly (s : State) (qs : List Range) :
    s.ChangesOnly (qs.foldl State.scrambleRange s) qs := by
  induction qs generalizing s with
  | nil => exact .of_mem_eq rfl []
  | cons q qs ih => exact (s.scrambleRange_changesOnly q).trans (ih (s.scrambleRange q))

/-- A reset changes only bytes of the aborted ranges. -/
theorem State.takeReset_changesOnly (s : State) : s.ChangesOnly s.takeReset s.abortedRanges :=
  s.scrambleRanges_changesOnly s.abortedRanges

/-- The aborted ranges are those that the command at CPC, or the command that waits, writes by its rule. -/
theorem State.mem_abortedRanges {s : State} {q : Range} (h : q ∈ s.abortedRanges) :
    ∃ i, ((s.phase = .run ∧ s.fetch = .ok i) ∨ ∃ req, s.phase = .waitCapture req ∧ i = req.command.instr) ∧
      q ∈ s.writtenRanges i := by
  unfold State.abortedRanges at h
  cases hphase : s.phase with
  | idle =>
    rw [hphase] at h
    cases h
  | run =>
    cases hfetch : s.fetch with
    | ok i =>
      simp only [hphase, hfetch] at h
      exact ⟨i, .inl ⟨rfl, rfl⟩, h⟩
    | error e =>
      simp only [hphase, hfetch] at h
      cases h
  | waitCapture req =>
    refine ⟨req.command.instr, .inr ⟨req, rfl, rfl⟩, ?_⟩
    simp only [hphase] at h
    cases hcommand : req.command with
    | capture | iterate =>
      simp only [hcommand] at h
      exact h

/-- An address of a range that is written under a condition is an address of the range. -/
theorem has_of_mem_guarded {c : Prop} [Decidable c] {qs : List Range} {q : Range} {x : Nat}
    (h : q ∈ if c then qs else []) (hx : q.has x = true) : ∃ p ∈ qs, p.has x = true := by
  split_ifs at h with hc
  · exact ⟨q, h, hx⟩
  · cases h

/-- An answer turn with no request outstanding is discarded (R151, R281). -/
theorem step_answer_idle {s : State} {a : CaptureAnswer} {rest : List Turn} (hidle : s.phase = .idle)
    (h : s.turns = .captureAnswer a :: rest) : step s = .next (s.withTurns rest) := by
  rw [step_turn h, takeTurn, answerCapture, State.withTurns_phase, hidle]

/-- Settles O55: the bytes are in the aborted ranges, command by command. -/
theorem resetTouchesOnlyTheAbortedCommand : Obligations.ResetTouchesOnlyTheAbortedCommand := by
  unfold Obligations.ResetTouchesOnlyTheAbortedCommand
  refine ⟨fun s answer rest => step_turn, fun s u rest hinv hturns h => ?_⟩
  cases (step_reset hturns).symm.trans h
  refine ⟨fun answer later hlater => step_answer_idle rfl hlater, fun x hx => ?_⟩
  have hchanges : s.ChangesOnly (s.withTurns rest).takeReset s.abortedRanges :=
    (s.withTurns rest).takeReset_changesOnly
  obtain ⟨q, hq, hhas⟩ := hchanges x hx
  obtain ⟨i, hi, hwritten⟩ := State.mem_abortedRanges hq
  refine ⟨i, hi.imp_right fun ⟨req, hwait, hinstr⟩ => ⟨req, hwait, hinstr⟩, ?_⟩
  cases i with
  | halt | nop | swap => cases hwritten
  | setup t r => exact has_of_mem_guarded hwritten hhas
  | capture | diff | compress | iterate | decompress | merge | receive =>
    simpa using has_of_mem_guarded hwritten hhas

end Sys2Proof.Machine
end
